-- ==== Sys2Proof/Word.lean ====
section
/-! DEFINITION. The plain data the ports of the block carry (spec/10_state.md rules R27 and R31,
spec/30_encoding.md rules R50 and R51): the two bit-pattern widths, the denormal mode, and a request.
Every value is a bit pattern; bit 0 is the least significant bit (spec/00_scope.md rule R6). -/

namespace Sys2Proof

/-- A 32-bit port value: a binary32 pattern (R50), a tolerance, a relative exponent or a result (R27, R28). -/
abbrev Word := BitVec 32

/-- A 16-bit pattern: a binary16 value (R51), carried in the low half of a port (R65). -/
abbrev Half := BitVec 16

/-- The three values a request's denormal mode can have (R31, R64).
R64 asks for a type of exactly three constructors, so that the reserved code `11` has no value here. -/
inductive DenormMode where
  | any
  | preserve
  | flushToZero
deriving DecidableEq, Repr

/-- One request: the four input ports, sampled together as one transaction (R27, R43). -/
structure Request where
  /-- `CTL[7:0]`: operation select, denormal mode and reserved bits (R62). -/
  ctl : BitVec 8
  /-- `A[31:0]`: the first operand. -/
  a : Word
  /-- `B[31:0]`: the second operand. -/
  b : Word
  /-- `C[31:0]`: the third operand (tolerance, epsilon or relative exponent, R66). -/
  c : Word
deriving DecidableEq, Repr

end Sys2Proof
end

