-- ==== Sys2Proof/Syntax.lean ====
section
/-! DEFINITION. The operations of the block, one constructor per row of spec/opcode_table.json
(spec/30_encoding.md rules R63 and R65). A constructor holds exactly what its operation reads: the operands at
their own width, and the denormal mode for the three operations that read it. What R65 calls "ignored" (a port,
the upper half of a port, the mode field) is no part of the instruction (assumption log entry 6). -/

namespace Sys2Proof

/-- The 13 operations (R63) with the operands of R65's table. -/
inductive Instr where
  /-- ENC16 (R80): binary32 to binary16. -/
  | enc16 (f : Word)
  /-- DEC32 (R86): binary16 to binary32. -/
  | dec32 (h : Half)
  /-- ISNAN16 (R90): the binary16 NaN test. -/
  | isnan16 (h : Half)
  /-- CMPULP32 (R105): 32-bit comparison by bit-pattern distance. -/
  | cmpulp32 (mode : DenormMode) (src ref tol : Word)
  /-- CMPULP16 (R110): 16-bit comparison by bit-pattern distance. -/
  | cmpulp16 (src ref : Half) (tol : Word)
  /-- CMPEPS32 (R106): 32-bit comparison by absolute epsilon. -/
  | cmpeps32 (mode : DenormMode) (src ref eps : Word)
  /-- CMPEPS16 (R111): 16-bit comparison by absolute epsilon. -/
  | cmpeps16 (src ref : Half) (eps : Word)
  /-- CMPREL32 (R107): 32-bit comparison by relative exponent. -/
  | cmprel32 (mode : DenormMode) (src ref relexp : Word)
  /-- CMPREL16 (R112): 16-bit comparison by relative exponent. -/
  | cmprel16 (src ref : Half) (relexp : Word)
  /-- ISDEN32 (R130): the binary32 denormal test. -/
  | isden32 (f : Word)
  /-- FTZ32 (R131): sign-preserving flush to zero. -/
  | ftz32 (f : Word)
  /-- FEQ32 (R132): value equality after flushing. -/
  | feq32 (a b : Word)
  /-- FEQN32 (R133): value equality after flushing, or both NaN. -/
  | feqn32 (a b : Word)
deriving DecidableEq, Repr

end Sys2Proof
end

