-- ==== Sys2Proof/WellFormed.lean ====
section
/-! DEFINITION. Which requests are well formed: those whose control field is not reserved (spec/30_encoding.md
rule R69). The three checks are R69's three conditions, negated. No operand value is checked: "No `A`, `B` or `C`
value ever makes a request illegal" (R69). A term of `Instr` needs no check: its fields have their exact widths,
and `DenormMode` has no value for the reserved code (R64). -/

namespace Sys2Proof

/-- R69 condition 1, negated: the reserved bits `CTL[7:6]` are `00`. -/
def rsvClear (ctl : BitVec 8) : Bool := ctl.extractLsb' 6 2 == 0#2

/-- R69 condition 2, negated: `CTL[3:0]` is not `0xD`, `0xE` or `0xF`. -/
def opDefined (ctl : BitVec 8) : Bool := (ctl.extractLsb' 0 4).toNat < 13

/-- The operations that read the mode field: CMPULP32, CMPEPS32 and CMPREL32 (R62, R64). -/
def opReadsMode (op : BitVec 4) : Bool := op == 3#4 || op == 5#4 || op == 7#4

/-- R69 condition 3, negated: an operation that reads the mode field does not find `11` in it. -/
def modeDefined (ctl : BitVec 8) : Bool :=
  !(opReadsMode (ctl.extractLsb' 0 4) && ctl.extractLsb' 4 2 == 3#2)

/-- A request is well formed when none of R69's conditions holds. -/
def Request.wellFormed (q : Request) : Bool :=
  rsvClear q.ctl && opDefined q.ctl && modeDefined q.ctl

end Sys2Proof
end

