-- ==== Sys2Proof/Decode.lean ====
section
/-! DEFINITION. Decoding and encoding of requests (spec/30_encoding.md rules R62 to R71), and the packed images of
rule R68. Decoding is total on any request: it names one of the 13 operations with its operands, or one illegal
cause (R71). The encoder writes every field an operation ignores as zero (assumption log entry 7). -/

namespace Sys2Proof

/-- Why a request is illegal (spec/60_exceptions.md rule R142). -/
inductive IllegalCause where
  /-- Cause 1: `CTL[3:0]` is `0xD`, `0xE` or `0xF`. -/
  | reservedOp
  /-- Cause 2: mode `11` for an operation that reads the mode. -/
  | reservedMode
  /-- Cause 3: `CTL[7:6]` is not `00`. -/
  | reservedBits
deriving DecidableEq, Repr

/-- What a request decodes to (R71). -/
inductive Decoded where
  | op (i : Instr)
  | illegal (c : IllegalCause)
deriving DecidableEq, Repr

/-! ## The fields of a request (R62) -/

/-- `CTL[3:0]`: operation select. -/
def Request.op (q : Request) : BitVec 4 := q.ctl.extractLsb' 0 4

/-- `CTL[5:4]`: denormal mode. -/
def Request.mode (q : Request) : BitVec 2 := q.ctl.extractLsb' 4 2

/-- `CTL[7:6]`: reserved, must be `00`. -/
def Request.rsv (q : Request) : BitVec 2 := q.ctl.extractLsb' 6 2

/-- A binary16 operand is the low half of its port; the upper half is ignored (R65). -/
def halfOf (x : Word) : Half := x.extractLsb' 0 16

/-- The denormal mode a two-bit code stands for; `11` is reserved (R64). -/
def DenormMode.ofCode (m : BitVec 2) : Option DenormMode :=
  match m with
  | 0#2 => some .any
  | 1#2 => some .preserve
  | 2#2 => some .flushToZero
  | _ => none

/-- The two-bit code of a denormal mode (R64). -/
def DenormMode.code : DenormMode → BitVec 2
  | .any => 0#2
  | .preserve => 1#2
  | .flushToZero => 2#2

/-! ## Decoding (R63, R65, R71) -/

/-- An operation that reads the mode: illegal with cause 2 when the mode is the reserved code. -/
def withMode (q : Request) (build : DenormMode → Instr) : Decoded :=
  match DenormMode.ofCode q.mode with
  | some m => .op (build m)
  | none => .illegal .reservedMode

/-- The operation map of R63, for a request whose reserved bits are `00`.
The last arm is exactly the three reserved values `0xD`, `0xE` and `0xF`. -/
def decodeOp (q : Request) : Decoded :=
  match q.op with
  | 0x0#4 => .op (.enc16 q.a)
  | 0x1#4 => .op (.dec32 (halfOf q.a))
  | 0x2#4 => .op (.isnan16 (halfOf q.a))
  | 0x3#4 => withMode q fun m => .cmpulp32 m q.a q.b q.c
  | 0x4#4 => .op (.cmpulp16 (halfOf q.a) (halfOf q.b) q.c)
  | 0x5#4 => withMode q fun m => .cmpeps32 m q.a q.b q.c
  | 0x6#4 => .op (.cmpeps16 (halfOf q.a) (halfOf q.b) q.c)
  | 0x7#4 => withMode q fun m => .cmprel32 m q.a q.b q.c
  | 0x8#4 => .op (.cmprel16 (halfOf q.a) (halfOf q.b) q.c)
  | 0x9#4 => .op (.isden32 q.a)
  | 0xA#4 => .op (.ftz32 q.a)
  | 0xB#4 => .op (.feq32 q.a q.b)
  | 0xC#4 => .op (.feqn32 q.a q.b)
  | _ => .illegal .reservedOp

/-- R71, in R143's order of priority: the reserved bits, then the operation, then the mode. -/
def decode (q : Request) : Decoded :=
  if q.rsv ≠ 0#2 then .illegal .reservedBits else decodeOp q

/-! ## Encoding -/

/-- The control byte of an operation code and a mode code, with the reserved bits `00` (R62). -/
def ctlOf (op : BitVec 4) (mode : BitVec 2) : BitVec 8 := 0#2 ++ mode ++ op

/-- The request of an instruction: the code of R63, the mode of R64 where the operation reads it, the operands
where R65 puts them, and zero in everything the operation ignores. -/
def encode (i : Instr) : Request :=
  match i with
  | .enc16 f => ⟨ctlOf 0x0#4 0#2, f, 0#32, 0#32⟩
  | .dec32 h => ⟨ctlOf 0x1#4 0#2, h.setWidth 32, 0#32, 0#32⟩
  | .isnan16 h => ⟨ctlOf 0x2#4 0#2, h.setWidth 32, 0#32, 0#32⟩
  | .cmpulp32 m s r t => ⟨ctlOf 0x3#4 m.code, s, r, t⟩
  | .cmpulp16 s r t => ⟨ctlOf 0x4#4 0#2, s.setWidth 32, r.setWidth 32, t⟩
  | .cmpeps32 m s r e => ⟨ctlOf 0x5#4 m.code, s, r, e⟩
  | .cmpeps16 s r e => ⟨ctlOf 0x6#4 0#2, s.setWidth 32, r.setWidth 32, e⟩
  | .cmprel32 m s r x => ⟨ctlOf 0x7#4 m.code, s, r, x⟩
  | .cmprel16 s r x => ⟨ctlOf 0x8#4 0#2, s.setWidth 32, r.setWidth 32, x⟩
  | .isden32 f => ⟨ctlOf 0x9#4 0#2, f, 0#32, 0#32⟩
  | .ftz32 f => ⟨ctlOf 0xA#4 0#2, f, 0#32, 0#32⟩
  | .feq32 a b => ⟨ctlOf 0xB#4 0#2, a, b, 0#32⟩
  | .feqn32 a b => ⟨ctlOf 0xC#4 0#2, a, b, 0#32⟩

/-! ## Packed images (R68) -/

/-- The 104-bit image `REQ` of a request: `CTL` in bits 7..0, then `A`, `B` and `C`. -/
def Request.toImage (q : Request) : BitVec 104 := q.c ++ q.b ++ q.a ++ q.ctl

/-- The request a 104-bit image stands for. -/
def Request.ofImage (w : BitVec 104) : Request :=
  ⟨w.extractLsb' 0 8, w.extractLsb' 8 32, w.extractLsb' 40 32, w.extractLsb' 72 32⟩

/-- Decoding of a packed request image; total on any 104 bits. -/
def decodeImage (w : BitVec 104) : Decoded := decode (Request.ofImage w)

/-- The packed request image of an instruction. -/
def encodeImage (i : Instr) : BitVec 104 := (encode i).toImage

/-- The request whose image holds the low `nbits` bits of `w` and zeros above. The opcode table numbers the bits of
`CTL` only (8 bits), and bit 0 of `CTL` is bit 0 of the image. -/
def requestOfTableWord (nbits w : Nat) : Request := Request.ofImage (BitVec.ofNat 104 (w % 2 ^ nbits))

/-- The instruction the decoder reads from a word numbered as spec/opcode_table.json numbers it. -/
def decodeTableWord (nbits w : Nat) : Option Instr :=
  match decode (requestOfTableWord nbits w) with
  | .op i => some i
  | .illegal _ => none

/-! ## The opcode table -/

/-- One row of spec/opcode_table.json: the mnemonic, and the bits of `CTL` it fixes. -/
structure OpcodeRow where
  mnemonic : String
  mask : BitVec 8
  pattern : BitVec 8
deriving DecidableEq, Repr

/-- The mnemonic of an instruction (R63). -/
def Instr.mnemonic : Instr → String
  | .enc16 _ => "ENC16"
  | .dec32 _ => "DEC32"
  | .isnan16 _ => "ISNAN16"
  | .cmpulp32 _ _ _ _ => "CMPULP32"
  | .cmpulp16 _ _ _ => "CMPULP16"
  | .cmpeps32 _ _ _ _ => "CMPEPS32"
  | .cmpeps16 _ _ _ => "CMPEPS16"
  | .cmprel32 _ _ _ _ => "CMPREL32"
  | .cmprel16 _ _ _ => "CMPREL16"
  | .isden32 _ => "ISDEN32"
  | .ftz32 _ => "FTZ32"
  | .feq32 _ _ => "FEQ32"
  | .feqn32 _ _ => "FEQN32"

/-- spec/opcode_table.json, row by row: every row fixes `CTL[7:6]` and `CTL[3:0]` (mask `0xCF`). -/
def opcodeTable : List OpcodeRow :=
  [ ⟨"ENC16", 0xCF#8, 0x00#8⟩,
    ⟨"DEC32", 0xCF#8, 0x01#8⟩,
    ⟨"ISNAN16", 0xCF#8, 0x02#8⟩,
    ⟨"CMPULP32", 0xCF#8, 0x03#8⟩,
    ⟨"CMPULP16", 0xCF#8, 0x04#8⟩,
    ⟨"CMPEPS32", 0xCF#8, 0x05#8⟩,
    ⟨"CMPEPS16", 0xCF#8, 0x06#8⟩,
    ⟨"CMPREL32", 0xCF#8, 0x07#8⟩,
    ⟨"CMPREL16", 0xCF#8, 0x08#8⟩,
    ⟨"ISDEN32", 0xCF#8, 0x09#8⟩,
    ⟨"FTZ32", 0xCF#8, 0x0A#8⟩,
    ⟨"FEQ32", 0xCF#8, 0x0B#8⟩,
    ⟨"FEQN32", 0xCF#8, 0x0C#8⟩ ]

end Sys2Proof
end

