-- ==== Sys2Proof/Config.lean ====
section
/-! DEFINITION. What an implementation of the block fixes (the parameters of spec/00_scope.md rule R5), and
the free values: what the spec leaves unspecified, as constants without a body, so that no proof can learn
one (spec/93_implementation_defined.md U1, U2). Assumption log entries 2, 3 and 11. -/

namespace Sys2Proof.Config

/-- `P_ENC_OVF`: what ENC16 does on the overflow band (R5, R85). -/
inductive EncOvf where
  /-- `INF`: saturate to infinity. -/
  | inf
  /-- `RAW`: the normal path's formula, applied outside its range. -/
  | raw
  /-- `ANY`: any 16-bit value, drawn afresh for each request. -/
  | any
deriving DecidableEq, Repr

/-- `P_ULP32_DIFF`: how the 32-bit bit-pattern distance is computed (R5, R102). -/
inductive Ulp32Diff where
  | wrap32
  | exact
deriving DecidableEq, Repr

/-- `P_ULP16_DIFF`: how the 16-bit bit-pattern distance is computed (R5, R109). -/
inductive Ulp16Diff where
  | wrap16
  | unsigned
  | exact
deriving DecidableEq, Repr

/-- `P_TOL_CMP`: how a negative tolerance compares (R5, R103). -/
inductive TolCmp where
  | math
  | ucast
deriving DecidableEq, Repr

/-- `P_EPS_SUB`: the precision of the epsilon test's subtraction (R5, R104). -/
inductive EpsSub where
  | rne32
  | exact
deriving DecidableEq, Repr

/-- One setting of the parameters that a response depends on (R5).
`P_LATENCY` is not among them: no rule depends on it (R165); it is `latency` below. -/
structure Params where
  encOvf   : EncOvf
  ulp32    : Ulp32Diff
  ulp16    : Ulp16Diff
  tolCmp   : TolCmp
  epsSub   : EpsSub
deriving DecidableEq, Repr

/-- The default column of R5's table: the spec's own choice. -/
def Params.default : Params :=
  { encOvf := .inf, ulp32 := .wrap32, ulp16 := .wrap16, tolCmp := .math, epsSub := .rne32 }

/-- `P_LATENCY` (R5, R165): a natural number of cycles that R5 leaves unspecified.
It has no body, and no definition of the model reads it: "A model represents no time". -/
opaque latency : Nat

/-- FREE VALUE (R85, U1). The 16-bit result of an ENC16 request on the overflow band under
`P_ENC_OVF = ANY`: the value of the n-th draw. Log entry 3. -/
opaque freeHalf : Nat → Half

/-- FREE VALUE (R144, U2). `Y` of an illegal request: the value of the n-th draw. Log entry 3. -/
opaque freeY : Nat → Word

end Sys2Proof.Config
end

