-- ==== Sys2Proof/Machine/Constants.lean ====
section
/-! DEFINITION. The named constants of spec/30_encoding.md rule R61, one table shared by the encode and decode
paths. R61 says that an implementation "must reproduce" them bit for bit. -/

namespace Sys2Proof.Machine

/-- `MIN16IN32`: 2^-14, the smallest binary16 normal as a binary32 pattern. -/
def min16In32 : Word := 0x38800000#32

/-- `MAX16IN32`: 65504, the largest finite binary16 value as a binary32 pattern. -/
def max16In32 : Word := 0x477FE000#32

/-- `MAX32`: the largest finite binary32 pattern. -/
def max32 : Word := 0x7F7FFFFF#32

/-- `FRAC32MASK`: the binary32 mantissa field. -/
def frac32Mask : Word := 0x007FFFFF#32

/-- `DENORM_RATIO`: 2^24 as a binary32 pattern, the scaling of the denormal encode path. -/
def denormRatio : Word := 0x4B800000#32

/-- `NORMAL_DELTA`: the rebias of a normal exponent, used as an integer. -/
def normalDelta : Word := 0x38000000#32

/-- `BIGGEST_DENORM16`: the largest binary16 denormal. -/
def biggestDenorm16 : Half := 0x03FF#16

/-- `BIGGEST_NORMAL16`: the largest binary16 normal. -/
def biggestNormal16 : Half := 0x7BFF#16

/-- `DENORM_DECODE_RATIO`: 2^-24 as a binary32 pattern, the scaling of the denormal decode path. -/
def denormDecodeRatio : Word := 0x33800000#32

/-- `INF_DECODE_DELTA`: the rebias of an infinity or a NaN in decoding, used as an integer. -/
def infDecodeDelta : Word := 0x70000000#32

/-- `SIGN32`: the sign bit of binary32. -/
def sign32Mask : Word := 0x80000000#32

/-- `SIGN16`: the sign bit of binary16. -/
def sign16Mask : Half := 0x8000#16

/-- `EXP16`: the exponent field of binary16. -/
def exp16Mask : Half := 0x7C00#16

/-- `FRAC16MASK`: the mantissa field of binary16. -/
def frac16Mask : Half := 0x03FF#16

/-- `MANT32_BITS`: the mantissa bit count of single precision. -/
def mant32Bits : Nat := 23

/-- `MANT16_BITS`: the mantissa bit count of half precision. -/
def mant16Bits : Nat := 10

end Sys2Proof.Machine
end

