-- ==== Sys2Proof/Machine/State.lean ====
section
/-! DEFINITION. The state of the model. The block itself "holds no architectural state" (spec/10_state.md rule R20):
the state is the traffic at its interface (the requests that wait, the responses given), and two fields of the
model's own (the parameter setting, the number of free values drawn). Assumption log entries 1, 2 and 3. -/

namespace Sys2Proof.Machine

/-- One response: the three output fields of R28. -/
structure Response where
  /-- `Y[31:0]`: the result. -/
  y : Word
  /-- `ILL`: whether the request's `CTL` encoding is reserved. -/
  ill : Bool
  /-- `CAUSE[1:0]`: why `ILL` is 1; 0 when it is not. -/
  cause : BitVec 2
deriving DecidableEq, Repr

/-- The state of the model. -/
structure State where
  /-- The requests issued and not answered yet, oldest first (R27, R32, R167). -/
  pending : List Request
  /-- The responses given, oldest first (R28, R167, R168). -/
  responses : List Response
  /-- The implementation's parameter setting (R5). No step changes it. -/
  params : Config.Params
  /-- How many free values have been drawn (R144, R85). -/
  draws : Nat
deriving DecidableEq, Repr

/-- Reasons to stop with a fault: there are none. "No operand value raises an exception" (R140), a reserved encoding
gets a response (R141), and the block has no trap mechanism (R146). Nothing raises a fault. -/
inductive Fault where
deriving DecidableEq, Repr

/-- Reasons to refuse an instruction. -/
inductive Refusal where
  /-- Raised by an arm of `exec` whose instruction has no meaning yet. Safe: nothing can be proved of such an
  instruction. No arm raises it now. -/
  | notModelled (mnemonic : String)
deriving DecidableEq, Repr

/-- The machine right after reset: "the block has no state to reset" (R160), so nothing waits and nothing has been
answered. The parameter setting is R5's default column, and no free value has been drawn. -/
def State.reset : State :=
  { pending := [], responses := [], params := Config.Params.default, draws := 0 }

end Sys2Proof.Machine
end

