-- ==== Sys2Proof/Machine/Flags.lean ====
section
/-! DEFINITION. The block keeps no flag and produces no IEEE-754 exception flag (spec/10_state.md rule R23), so no flag
computation stands here. What a response indicates beside its result does: the Boolean result on `Y`, the cause codes
of an illegal request, and the packed response image (R28, R67, R68, R142). -/

namespace Sys2Proof.Machine

/-- A Boolean result on `Y`: `0x00000001` for true and `0x00000000` for false (R28, R67). -/
def boolY (b : Bool) : Word := if b then 1#32 else 0#32

/-- A binary16 result on `Y`: the pattern in `Y[15:0]`, zeros above (R28, R67). -/
def halfY (h : Half) : Word := h.setWidth 32

/-- The cause code of R142. -/
def causeCode : IllegalCause → BitVec 2
  | .reservedOp => 1#2
  | .reservedMode => 2#2
  | .reservedBits => 3#2

/-- The response of a legal request with result `y`: `ILL = 0` and `CAUSE = 0` (R67, R141). -/
def legalResponse (y : Word) : Response := { y := y, ill := false, cause := 0#2 }

/-- The response of an illegal request, with the value its unspecified `Y` takes (R141, R144). -/
def illegalResponse (c : IllegalCause) (y : Word) : Response :=
  { y := y, ill := true, cause := causeCode c }

/-- The 35-bit image `RSP`: `Y` in bits 31..0, `ILL` in bit 32, `CAUSE` in bits 34..33 (R68). -/
def Response.toImage (r : Response) : BitVec 35 := r.cause ++ BitVec.ofBool r.ill ++ r.y

end Sys2Proof.Machine
end

