-- ==== Sys2Proof/Machine/Operands.lean ====
section
/-! DEFINITION. The forms an operand is read in: the fields of a binary32 and a binary16 pattern, the five classes,
the predicates, the signed reading of a port, and the value of a pattern (spec/30_encoding.md rules R50 to R60 and
R66). Reinterpreting a pattern is the identity on bits (spec/00_scope.md rule R9), so no operation stands for it. -/

namespace Sys2Proof.Machine

/-! ## binary32 fields (R50) and binary16 fields (R51) -/

/-- The sign bit `x[31]`. -/
def sign32 (x : Word) : Bool := x.getLsbD 31

/-- The exponent field `x[30:23]`. -/
def exp32 (x : Word) : BitVec 8 := x.extractLsb' 23 8

/-- The mantissa field `x[22:0]`. -/
def mant32 (x : Word) : BitVec 23 := x.extractLsb' 0 23

/-- The sign bit `h[15]`. -/
def sign16 (h : Half) : Bool := h.getLsbD 15

/-- The exponent field `h[14:10]`. -/
def exp16 (h : Half) : BitVec 5 := h.extractLsb' 10 5

/-- The mantissa field `h[9:0]`. -/
def mant16 (h : Half) : BitVec 10 := h.extractLsb' 0 10

/-! ## Classes (R52, R53) -/

/-- The five classes of a floating-point pattern. -/
inductive FloatClass where
  | zero
  | denormal
  | normal
  | infinity
  | nan
deriving DecidableEq, Repr

/-- The class of a pattern with exponent field `e`, all-ones exponent `top` and mantissa field `m`. -/
def classify (e top m : Nat) : FloatClass :=
  if e = 0 then (if m = 0 then .zero else .denormal)
  else if e = top then (if m = 0 then .infinity else .nan)
  else .normal

/-- The class of a binary32 pattern (R52). -/
def classify32 (x : Word) : FloatClass := classify (exp32 x).toNat 0xFF (mant32 x).toNat

/-- The class of a binary16 pattern (R53). -/
def classify16 (h : Half) : FloatClass := classify (exp16 h).toNat 0x1F (mant16 h).toNat

/-! ## Predicates (R54, R55) -/

/-- Class NaN. -/
def isNaN32 (x : Word) : Bool := classify32 x = .nan

/-- Class Infinity. -/
def isInf32 (x : Word) : Bool := classify32 x = .infinity

/-- Class Zero. -/
def isZero32 (x : Word) : Bool := classify32 x = .zero

/-- Class Denormal: "exponent field is zero and mantissa field is nonzero". -/
def isDenormal32 (x : Word) : Bool := exp32 x == 0#8 && mant32 x != 0#23

/-- The binary16 NaN test, by the two masks of R55. -/
def isNaN16 (h : Half) : Bool := h &&& exp16Mask == exp16Mask && h &&& frac16Mask != 0#16

/-- R58: equality of values. A NaN equals nothing, the two zeros are equal, and otherwise equal values have equal
bits. -/
def valEq32 (p q : Word) : Bool :=
  if isNaN32 p || isNaN32 q then false
  else if isZero32 p && isZero32 q then true
  else p == q

/-! ## The third operand (R66) -/

/-- `s32(C)`: a port read as a two's-complement integer (spec/00_scope.md rule R6). -/
def s32 (c : Word) : Int := c.toInt

/-! ## Values (R56, R57, R60)

A finite binary32 value is an integer multiple of 2^-149, and a finite binary16 value one of 2^-24. The model
computes with those integers, exactly (assumption log entry 8). -/

/-- The magnitude of a finite pattern in units of its format's smallest denormal: `m` when the exponent field is
zero, else (2^w + m) * 2^(e-1), with `w` the width of the mantissa field. -/
def magUnits (w e m : Nat) : Nat := if e = 0 then m else (2 ^ w + m) * 2 ^ (e - 1)

/-- The value of a finite binary32 pattern, in units of 2^-149 (R56). -/
def units32 (x : Word) : Int :=
  let u : Int := magUnits mant32Bits (exp32 x).toNat (mant32 x).toNat
  if sign32 x then -u else u

/-- The value of a finite binary16 pattern, in units of 2^-24 (R57). -/
def units16 (h : Half) : Int :=
  let u : Int := magUnits mant16Bits (exp16 h).toNat (mant16 h).toNat
  if sign16 h then -u else u

/-- A value in the extended reals: an infinity, or a finite value in units of 2^-149 (R56, R60). -/
inductive ExtVal where
  | negInf
  | fin (units : Int)
  | posInf
deriving DecidableEq, Repr

/-- Less-than in the extended reals (R60): minus infinity below every finite value, plus infinity above. -/
def ExtVal.lt : ExtVal → ExtVal → Bool
  | .negInf, .negInf => false
  | .negInf, _ => true
  | _, .negInf => false
  | .posInf, _ => false
  | .fin _, .posInf => true
  | .fin a, .fin b => a < b

/-- The value of a binary32 pattern in the extended reals; a NaN has none (R56). -/
def extVal32 (x : Word) : Option ExtVal :=
  match classify32 x with
  | .nan => none
  | .infinity => some (if sign32 x then .negInf else .posInf)
  | _ => some (.fin (units32 x))

/-- The value of a binary16 pattern in the extended reals; a NaN has none (R57). A unit of binary16 is 2^-24, which is
2^125 units of 2^-149, so that values of the two formats can be compared. -/
def extVal16 (h : Half) : Option ExtVal :=
  match classify16 h with
  | .nan => none
  | .infinity => some (if sign16 h then .negInf else .posInf)
  | _ => some (.fin (units16 h * 2 ^ 125))

/-- Less-than of two values where either may be missing: false when one is. -/
def extLt : Option ExtVal → Option ExtVal → Bool
  | some v, some w => v.lt w
  | _, _ => false

/-- R60: less-than of binary32 patterns; false when either is a NaN. -/
def lt32 (p q : Word) : Bool := extLt (extVal32 p) (extVal32 q)

/-! ## Rounding to binary32 (R59) -/

/-- The quotient of `n` by `2^k`, rounded to nearest, and to the even quotient when two are equally near. -/
def roundShift (n k : Nat) : Nat :=
  let q := n / 2 ^ k
  let r := n % 2 ^ k
  if 2 * r > 2 ^ k ∨ (2 * r = 2 ^ k ∧ q % 2 = 1) then q + 1 else q

/-- R59 on the real number `n * 2^-149`: round to nearest, ties to even, gradual underflow, and plus infinity from
2^128 - 2^103 on (in units, that times 2^149). With `k` the number of low bits that do not fit into 24, the result's
pattern is `k * 2^23` plus the rounded 24-bit quotient: for `k = 0` the quotient is `n` itself, a denormal or a number
of the lowest normal binade, and a carry out of the quotient moves into the exponent field by the same addition. -/
def fl32 (n : Nat) : Word :=
  if (2 ^ 128 - 2 ^ 103) * 2 ^ 149 ≤ n then 0x7F800000#32
  else
    let k := Nat.log2 n - 23
    BitVec.ofNat 32 (k * 2 ^ 23 + roundShift n k)

/-! ## The value formulas of R56 and R57 in rational numbers

Used by statements only: the meanings compute in units. These are the Zero, Denormal and Normal rows of the two rules, whose
values are rational; the Infinity rows are in `extVal32` and `extVal16`. -/

/-- R56 for a finite pattern; none for an infinity (see `extVal32`) or a NaN. -/
def val32 (x : Word) : Option ℚ :=
  let sgn : ℚ := if sign32 x then -1 else 1
  match classify32 x with
  | .zero => some 0
  | .denormal => some (sgn * (mant32 x).toNat * (2 : ℚ) ^ (-149 : ℤ))
  | .normal => some (sgn * (2 ^ 23 + (mant32 x).toNat) * (2 : ℚ) ^ (((exp32 x).toNat : ℤ) - 150))
  | .infinity => none
  | .nan => none

/-- R57 for a finite pattern; none for an infinity (see `extVal16`) or a NaN. -/
def val16 (h : Half) : Option ℚ :=
  let sgn : ℚ := if sign16 h then -1 else 1
  match classify16 h with
  | .zero => some 0
  | .denormal => some (sgn * (mant16 h).toNat * (2 : ℚ) ^ (-24 : ℤ))
  | .normal => some (sgn * (2 ^ 10 + (mant16 h).toNat) * (2 : ℚ) ^ (((exp16 h).toNat : ℤ) - 25))
  | .infinity => none
  | .nan => none

end Sys2Proof.Machine
end

