-- ==== Sys2Proof/Machine/Ops.lean ====
section
/-! DEFINITION. The operations over the state that every meaning uses: giving a response, drawing a free value, and
the answer to an illegal request; and what the host does to the block: issuing a request, and reset. -/

namespace Sys2Proof.Machine

/-- Deliver one response, after those already given (R30, R167). -/
def State.deliver (r : Response) (s : State) : State := { s with responses := s.responses ++ [r] }

/-- Drive the result port: the answer to a legal request (R7 `Y <- v`, R67). -/
def State.answer (y : Word) (s : State) : State := s.deliver (legalResponse y)

/-- The answer of a Boolean operation (R67). -/
def State.answerBool (b : Bool) (s : State) : State := s.answer (boolY b)

/-- The answer of an operation with a binary16 result (R67). -/
def State.answerHalf (h : Half) (s : State) : State := s.answer (halfY h)

/-- One free value has been used: the next draw is another one (R29, R144). -/
def State.nextDraw (s : State) : State := { s with draws := s.draws + 1 }

/-- The one exceptional outcome: `raise Illegal(cause)` of R7, R141. The response has `ILL = 1`, the cause's code and a
freshly drawn `Y` (R144). Nothing is saved, no mode changes and no control is transferred, so there is no return from
it (R146). -/
def State.raiseIllegal (c : IllegalCause) (s : State) : State :=
  (s.deliver (illegalResponse c (Config.freeY s.draws))).nextDraw

/-! ## Taking a request -/

/-- The request that is answered next, and the state without it: the oldest one waiting (R167). -/
def State.fetch (s : State) : Option (Request × State) :=
  match s.pending with
  | [] => none
  | q :: qs => some (q, { s with pending := qs })

/-- `s` with `q` standing where `fetch` finds the next request, in place of the one that stood there. -/
def State.placeRequest (q : Request) (s : State) : State :=
  { s with pending := q :: s.pending.tail }

/-! ## The host -/

/-- The host issues a request: it waits behind those issued before (R32, R167). -/
def State.issue (q : Request) (s : State) : State := { s with pending := s.pending ++ [q] }

/-- A reset that arrives while requests wait discards them, and no response is delivered for them (R162). The block
has nothing else to reset (R160); the responses already delivered are the host's, and the parameters are fixed in the
hardware. -/
def State.resetEvent (s : State) : State := { s with pending := [] }

end Sys2Proof.Machine
end

