-- ==== Sys2Proof/Machine/Codec.lean ====
section
/-! DEFINITION. HalfPrecisionCodec: ENC16, DEC32 and ISNAN16 (spec/41_codec.md rules R80 to R91). -/

namespace Sys2Proof.Machine

/-! ## ENC16 -/

/-- The sign of the input, shifted to bit 15 (R81). -/
def encSign (f : Word) : Half := (f &&& sign32Mask).extractLsb' 16 16

/-- The magnitude pattern of the input: `f ^ sign` (R81). -/
def encAbs (f : Word) : Word := f ^^^ (f &&& sign32Mask)

/-- R82, the denormal path, in the bit-level form R82 gives beside `floor(val32(abs) * 2^24)`.
For `abs` below `MIN16IN32` the exponent is at most 0x70, so the shift is by 14 or more. -/
def encDenorm (abs : Word) : Half :=
  if exp32 abs = 0#8 then 0#16
  else ((0x00800000#32 ||| (abs &&& frac32Mask)) >>> (126 - (exp32 abs).toNat)).setWidth 16

/-- R83, infinities and NaNs: a NaN's mantissa becomes all ones. -/
def encInfNan (abs : Word) : Half :=
  exp16Mask ||| (if abs &&& frac32Mask ≠ 0#32 then frac16Mask else 0#16)

/-- R84, the normal path: rebias and discard the 13 low mantissa bits. -/
def encNormal (abs : Word) : Half := ((abs - normalDelta) >>> 13).setWidth 16

/-- The overflow band of R85: finite magnitudes above 65504. -/
def encInBand (f : Word) : Bool :=
  !(encAbs f).ult min16In32 && !(max32.ult (encAbs f)) && max16In32.ult (encAbs f)

/-- The binary16 result of R80. `draw` is the value an ENC16 request draws under `P_ENC_OVF = ANY`; there it is the whole
result, and the sign is not ORed in (R85). -/
def enc16 (ovf : Config.EncOvf) (draw : Half) (f : Word) : Half :=
  let abs := encAbs f
  if abs.ult min16In32 then encDenorm abs ||| encSign f
  else if max32.ult abs then encInfNan abs ||| encSign f
  else if max16In32.ult abs then
    match ovf with
    | .inf => exp16Mask ||| encSign f
    | .raw => encNormal abs ||| encSign f
    | .any => draw
  else encNormal abs ||| encSign f

/-- Whether an ENC16 request draws a free value: on the overflow band under `ANY` (R85). -/
def encDraws (ovf : Config.EncOvf) (f : Word) : Bool := ovf == .any && encInBand f

/-- ENC16 (R80). -/
def execEnc16 (f : Word) (s : State) : Host.Outcome State Fault Refusal :=
  let t := s.answerHalf (enc16 s.params.encOvf (Config.freeHalf s.draws) f)
  .next (if encDraws s.params.encOvf f then t.nextDraw else t)

/-! ## DEC32 -/

/-- R87, the denormal path of DEC32: `abs * 2^-24`, exactly, with `k` the index of the highest set bit of `abs`. -/
def decDenorm (abs : Word) : Word :=
  if abs = 0#32 then 0#32
  else
    let k := Nat.log2 abs.toNat
    (BitVec.ofNat 32 (k + 103) <<< 23) ||| ((abs - (1#32 <<< k)) <<< (23 - k))

/-- The binary32 pattern of R86. -/
def dec32 (h : Half) : Word :=
  let sgn : Word := (h &&& sign16Mask).setWidth 32 <<< 16
  let abs : Word := (h &&& 0x7FFF#16).setWidth 32
  let r : Word :=
    if (biggestNormal16.setWidth 32).ult abs then (abs <<< 13) + infDecodeDelta
    else if (biggestDenorm16.setWidth 32).ult abs then (abs <<< 13) + normalDelta
    else decDenorm abs
  r ||| sgn

/-- DEC32 (R86). -/
def execDec32 (h : Half) (s : State) : Host.Outcome State Fault Refusal := .next (s.answer (dec32 h))

/-! ## ISNAN16 -/

/-- ISNAN16 (R90). -/
def execIsnan16 (h : Half) (s : State) : Host.Outcome State Fault Refusal :=
  .next (s.answerBool (isNaN16 h))

end Sys2Proof.Machine
end

