-- ==== Sys2Proof/Machine/Compare.lean ====
section
/-! DEFINITION. ToleranceComparator: CMPULP32, CMPEPS32, CMPREL32, CMPULP16, CMPEPS16 and CMPREL16
(spec/42_compare.md rules R100 to R116). -/

namespace Sys2Proof.Machine

/-! ## Shared steps -/

/-- R100, steps 1 to 3 of the 32-bit comparators; none when the final test decides. -/
def special32 (m : DenormMode) (s r : Word) : Option Bool :=
  if valEq32 s r then some true
  else if isNaN32 s then some (isNaN32 r)
  else if m == .any && isDenormal32 r && isZero32 s && sign32 s == sign32 r then some true
  else none

/-- R108, steps 1 and 2 of the 16-bit comparators; there is no denormal step. Step 1 compares bits. -/
def special16 (s r : Half) : Option Bool :=
  if s == r then some true
  else if isNaN16 s then some (isNaN16 r)
  else none

/-- The magnitude of a wrapped difference read as a signed number. -/
def wrapDist {w : Nat} (d : BitVec w) : Nat := if d.msb then 2 ^ w - d.toNat else d.toNat

/-- R102: the bit-pattern distance of the 32-bit ULP test. -/
def ulpDist32 (p : Config.Ulp32Diff) (s r : Word) : Nat :=
  match p with
  | .wrap32 => wrapDist (s - r)
  | .exact => (s.toInt - r.toInt).natAbs

/-- R109: the bit-pattern distance of the 16-bit ULP test. -/
def ulpDist16 (p : Config.Ulp16Diff) (s r : Half) : Nat :=
  match p with
  | .wrap16 => wrapDist (s - r)
  | .unsigned => ((s.toNat : Int) - (r.toNat : Int)).natAbs
  | .exact => (s.toInt - r.toInt).natAbs

/-- R103: whether a distance is within a tolerance. -/
def tolOk (p : Config.TolCmp) (dist : Nat) (tol : Int) : Bool :=
  match p with
  | .math => (dist : Int) ≤ tol
  | .ucast => (dist : Int) ≤ tol % 2 ^ 32

/-- R104: the epsilon test. The difference of two finite values is exact, in units of 2^-149; under `RNE32` it is
then rounded to binary32. The comparison is strict, and `eps` is used at its value, unflushed. -/
def epsTest (p : Config.EpsSub) (s r eps : Word) : Bool :=
  if isNaN32 s || isNaN32 r || isNaN32 eps then false
  else if isInf32 s || isInf32 r then false
  else
    let d := (units32 s - units32 r).natAbs
    match p with
    | .rne32 => lt32 (fl32 d) eps
    | .exact => extLt (some (.fin d)) (extVal32 eps)

/-- The 32-bit comparison by distance, with an exact tolerance (R105, R107). -/
def cmpUlp32 (p : Config.Params) (m : DenormMode) (s r : Word) (tol : Int) : Bool :=
  (special32 m s r).getD (tolOk p.tolCmp (ulpDist32 p.ulp32 s r) tol)

/-- The 16-bit comparison by distance, with an exact tolerance (R110, R112). -/
def cmpUlp16 (p : Config.Params) (s r : Half) (tol : Int) : Bool :=
  (special16 s r).getD (tolOk p.tolCmp (ulpDist16 p.ulp16 s r) tol)

/-- The 32-bit comparison by epsilon (R106). -/
def cmpEps32 (p : Config.Params) (m : DenormMode) (s r eps : Word) : Bool :=
  (special32 m s r).getD (epsTest p.epsSub s r eps)

/-- The 16-bit comparison by epsilon: both halves are promoted by DEC32 for the final test (R111). -/
def cmpEps16 (p : Config.Params) (s r : Half) (eps : Word) : Bool :=
  (special16 s r).getD (epsTest p.epsSub (dec32 s) (dec32 r) eps)

/-! ## The six comparators -/

/-- CMPULP32 (R105). -/
def execCmpulp32 (m : DenormMode) (s r tol : Word) (st : State) : Host.Outcome State Fault Refusal :=
  .next (st.answerBool (cmpUlp32 st.params m s r (s32 tol)))

/-- CMPEPS32 (R106). -/
def execCmpeps32 (m : DenormMode) (s r eps : Word) (st : State) : Host.Outcome State Fault Refusal :=
  .next (st.answerBool (cmpEps32 st.params m s r eps))

/-- CMPREL32 (R107): the tolerance `23 - s32(C)` is exact. -/
def execCmprel32 (m : DenormMode) (s r relexp : Word) (st : State) : Host.Outcome State Fault Refusal :=
  .next (st.answerBool (cmpUlp32 st.params m s r ((mant32Bits : Int) - s32 relexp)))

/-- CMPULP16 (R110). -/
def execCmpulp16 (s r : Half) (tol : Word) (st : State) : Host.Outcome State Fault Refusal :=
  .next (st.answerBool (cmpUlp16 st.params s r (s32 tol)))

/-- CMPEPS16 (R111). -/
def execCmpeps16 (s r : Half) (eps : Word) (st : State) : Host.Outcome State Fault Refusal :=
  .next (st.answerBool (cmpEps16 st.params s r eps))

/-- CMPREL16 (R112): the tolerance `10 - s32(C)` is exact. -/
def execCmprel16 (s r : Half) (relexp : Word) (st : State) : Host.Outcome State Fault Refusal :=
  .next (st.answerBool (cmpUlp16 st.params s r ((mant16Bits : Int) - s32 relexp)))

end Sys2Proof.Machine
end

