-- ==== Sys2Proof/Machine/Denorm.lean ====
section
/-! DEFINITION. DenormClassifier: ISDEN32, FTZ32, FEQ32 and FEQN32 (spec/43_denorm.md rules R130 to R135). -/

namespace Sys2Proof.Machine

/-- The flush of R131: a denormal becomes the zero of its sign; every other pattern is unchanged. -/
def ftz32 (f : Word) : Word := if isDenormal32 f then f &&& sign32Mask else f

/-- Equality of values after flushing both operands (R132). -/
def flushedEq32 (a b : Word) : Bool := valEq32 (ftz32 a) (ftz32 b)

/-- ISDEN32 (R130). -/
def execIsden32 (f : Word) (s : State) : Host.Outcome State Fault Refusal :=
  .next (s.answerBool (isDenormal32 f))

/-- FTZ32 (R131). -/
def execFtz32 (f : Word) (s : State) : Host.Outcome State Fault Refusal := .next (s.answer (ftz32 f))

/-- FEQ32 (R132). -/
def execFeq32 (a b : Word) (s : State) : Host.Outcome State Fault Refusal :=
  .next (s.answerBool (flushedEq32 a b))

/-- FEQN32 (R133). -/
def execFeqn32 (a b : Word) (s : State) : Host.Outcome State Fault Refusal :=
  .next (s.answerBool ((isNaN32 a && isNaN32 b) || flushedEq32 a b))

end Sys2Proof.Machine
end

