-- ==== Sys2Proof/Machine/Dispatch.lean ====
section
/-! DEFINITION. Dispatch of an instruction to its meaning, one arm per constructor. -/

namespace Sys2Proof.Machine

/-- The meaning of an instruction: the state after its response. -/
def exec (i : Instr) (s : State) : Host.Outcome State Fault Refusal :=
  match i with
  | .enc16 f => Sys2Proof.Machine.execEnc16 f s
  | .dec32 h => Sys2Proof.Machine.execDec32 h s
  | .isnan16 h => Sys2Proof.Machine.execIsnan16 h s
  | .cmpulp32 mode src ref tol => Sys2Proof.Machine.execCmpulp32 mode src ref tol s
  | .cmpulp16 src ref tol => Sys2Proof.Machine.execCmpulp16 src ref tol s
  | .cmpeps32 mode src ref eps => Sys2Proof.Machine.execCmpeps32 mode src ref eps s
  | .cmpeps16 src ref eps => Sys2Proof.Machine.execCmpeps16 src ref eps s
  | .cmprel32 mode src ref relexp => Sys2Proof.Machine.execCmprel32 mode src ref relexp s
  | .cmprel16 src ref relexp => Sys2Proof.Machine.execCmprel16 src ref relexp s
  | .isden32 f => Sys2Proof.Machine.execIsden32 f s
  | .ftz32 f => Sys2Proof.Machine.execFtz32 f s
  | .feq32 a b => Sys2Proof.Machine.execFeq32 a b s
  | .feqn32 a b => Sys2Proof.Machine.execFeqn32 a b s

end Sys2Proof.Machine
end

