-- ==== Sys2Proof/Machine/Step.lean ====
section
/-! DEFINITION. One step of the block: the oldest waiting request is taken, decoded and answered
(spec/60_exceptions.md rule R141, spec/70_reset_and_hazards.md rule R167). -/

namespace Sys2Proof.Machine

/-- One step: the oldest waiting request is decoded; a legal one is performed, an illegal one is answered by R141.
With no request waiting the block does nothing (assumption log entry 4). -/
def step (s : State) : Host.Outcome State Fault Refusal :=
  match s.fetch with
  | none => .next s
  | some (q, t) =>
    match decode q with
    | .op i => exec i t
    | .illegal c => .next (t.raiseIllegal c)

/-- `s` with the request whose control bits are the low `nbits` bits of `w` (all else zero) standing where `step` takes
its next request (assumption log entry 5). -/
def State.withFetchWord (s : State) (nbits w : Nat) : State :=
  s.placeRequest (requestOfTableWord nbits w)

end Sys2Proof.Machine
end

