-- ==== Sys2Proof/Safety.lean ====
section
/-! DEFINITION. What a safe run is, and the terms the statements use. Nothing the machine does depends on this file.
The second part writes the spec's rules on bit patterns in plain integer arithmetic on `toNat`, without the model's own
field, class, distance and mask functions, so that a statement compares two independent readings of a rule. -/

namespace Sys2Proof.Machine

/-! ## Safe runs -/

/-- `n` steps, stopping at the first fault or refusal: `Host.Core.run` of the core, on the model's own types. -/
def run : Nat → State → Host.Outcome State Fault Refusal
  | 0, s => .next s
  | n + 1, s =>
    match step s with
    | .next t => run n t
    | .fault r => .fault r
    | .refused r => .refused r

/-- A response as R28 allows it: `CAUSE` is 0 when `ILL` is 0, and one of R142's codes 1, 2 and 3 when it is 1. -/
def Response.coherent (r : Response) : Bool := r.ill == (r.cause != 0#2)

/-- Every response given so far is one that R28 and R142 allow. -/
def State.coherent (s : State) : Bool := s.responses.all Response.coherent

/-- Whether answering a request uses a free value: an illegal one does, and an ENC16 on the overflow band under
`P_ENC_OVF = ANY` (R8, R29). -/
def Request.draws (p : Config.Params) (q : Request) : Bool :=
  match decode q with
  | .illegal _ => true
  | .op (.enc16 f) => encDraws p.encOvf f
  | .op _ => false

/-- The response the block gives to one request, alone, from reset, with this parameter setting and draw count: R29's
`respond`. -/
def respond (p : Config.Params) (n : Nat) (q : Request) : Option Response :=
  match step { State.reset with params := p, draws := n, pending := [q] } with
  | .next t => t.responses.head?
  | .fault _ => none
  | .refused _ => none

/-- The draw count after answering a request. -/
def drawsAfter (p : Config.Params) (n : Nat) (q : Request) : Nat := if Request.draws p q then n + 1 else n

/-- The draw count after answering requests in order. -/
def drawsAfterAll (p : Config.Params) (n : Nat) (qs : List Request) : Nat := qs.foldl (drawsAfter p) n

/-- Each request answered by itself (R29), in the order of issue (R167). -/
def respondAll (p : Config.Params) : Nat → List Request → List Response
  | _, [] => []
  | n, q :: qs => (respond p n q).toList ++ respondAll p (drawsAfter p n q) qs

end Sys2Proof.Machine

namespace Sys2Proof.Spec

open Sys2Proof.Machine

/-- `s` after a legal request with result `y`: one response more, and nothing else changed. -/
def answered (s : State) (y : Word) : State :=
  { s with responses := s.responses ++ [{ y := y, ill := false, cause := 0#2 }] }

/-- `s` after a legal request with Boolean result `b`: `Y` is 1 or 0 (R28). -/
def answeredBool (s : State) (b : Bool) : State := answered s (if b then 0x00000001#32 else 0x00000000#32)

/-! ## Control bits (R62, R69) -/

/-- `CTL[3:0]`. -/
def opBits (q : Request) : Nat := q.ctl.toNat % 16
/-- `CTL[5:4]`. -/
def modeBits (q : Request) : Nat := q.ctl.toNat / 16 % 4
/-- `CTL[7:6]`. -/
def rsvBits (q : Request) : Nat := q.ctl.toNat / 64

/-- None of R69's three conditions. -/
abbrev legal (q : Request) : Prop :=
  rsvBits q = 0 ∧ opBits q < 13 ∧ ¬ ((opBits q = 3 ∨ opBits q = 5 ∨ opBits q = 7) ∧ modeBits q = 3)

/-- The operations that take binary16 operands (R65): DEC32, ISNAN16, CMPULP16, CMPEPS16, CMPREL16. -/
def readsHalves (op : Nat) : Bool := op = 1 ∨ op = 2 ∨ op = 4 ∨ op = 6 ∨ op = 8
/-- The operations that read port `B` (R65): the comparators, FEQ32, FEQN32. -/
def readsB (op : Nat) : Bool := (3 ≤ op ∧ op ≤ 8) ∨ op = 11 ∨ op = 12
/-- The operations that read port `C` (R65): the comparators. -/
def readsC (op : Nat) : Bool := 3 ≤ op ∧ op ≤ 8
/-- The operations that read the mode (R65): CMPULP32, CMPEPS32, CMPREL32. -/
def readsMode (op : Nat) : Bool := op = 3 ∨ op = 5 ∨ op = 7

/-- A request with everything R65 calls ignored set to zero. -/
def readPart (q : Request) : Request :=
  let port (x : Word) : Word := if readsHalves (opBits q) then BitVec.ofNat 32 (x.toNat % 2 ^ 16) else x
  { ctl := if readsMode (opBits q) then q.ctl else BitVec.ofNat 8 (rsvBits q * 64 + opBits q)
    a := port q.a
    b := if readsB (opBits q) then port q.b else 0#32
    c := if readsC (opBits q) then q.c else 0#32 }

/-- The low half of a port as a binary16 pattern (R65). -/
def lowHalf (x : Word) : Half := BitVec.ofNat 16 (x.toNat % 2 ^ 16)

/-- Every request with reserved bits `00` and this operation code is the instruction that `build` makes of its ports,
whatever else it holds. -/
def encodedBy (op : Nat) (build : Request → Instr) : Prop :=
  ∀ q, rsvBits q = 0 → opBits q = op → decode q = .op (build q)

/-- The same for an operation that reads the mode, by the four values of the mode field (R64): `11` is illegal. -/
def encodedWithMode (op : Nat) (build : DenormMode → Request → Instr) : Prop :=
  ∀ q, rsvBits q = 0 → opBits q = op →
    (modeBits q = 0 → decode q = .op (build .any q)) ∧ (modeBits q = 1 → decode q = .op (build .preserve q)) ∧
    (modeBits q = 2 → decode q = .op (build .flushToZero q)) ∧ (modeBits q = 3 → decode q = .illegal .reservedMode)

/-! ## Patterns as numbers -/

/-- The magnitude field of a binary32 pattern, `x[30:0]`. -/
def abs32 (x : Word) : Nat := x.toNat % 2 ^ 31
/-- The sign bit of a binary32 pattern. -/
abbrev neg32 (x : Word) : Prop := 2 ^ 31 ≤ x.toNat
/-- A NaN: exponent all ones, mantissa not zero. -/
abbrev nan32 (x : Word) : Prop := 0x7F800000 < abs32 x
/-- An infinity. -/
abbrev inf32 (x : Word) : Prop := abs32 x = 0x7F800000
/-- A denormal: exponent zero, mantissa not zero. -/
abbrev den32 (x : Word) : Prop := 0 < abs32 x ∧ abs32 x < 0x00800000
/-- The magnitude field of a binary16 pattern, `h[14:0]`. -/
def abs16 (h : Half) : Nat := h.toNat % 2 ^ 15
/-- The sign bit of a binary16 pattern. -/
abbrev neg16 (h : Half) : Prop := 2 ^ 15 ≤ h.toNat
/-- A NaN of binary16. -/
abbrev nan16 (h : Half) : Prop := 0x7C00 < abs16 h

/-- A port read as a two's-complement integer (R6). -/
def signed (c : Word) : Int := if c.toNat < 2 ^ 31 then c.toNat else (c.toNat : Int) - 2 ^ 32

/-- Value equality of R58, by its last three lines. -/
abbrev valueEq (p q : Word) : Prop := ¬ nan32 p ∧ ¬ nan32 q ∧ ((abs32 p = 0 ∧ abs32 q = 0) ∨ p = q)

/-- The overflow band of R85. -/
abbrev band (f : Word) : Prop := 0x477FE000 < abs32 f ∧ abs32 f ≤ 0x7F7FFFFF

/-- R131: a denormal becomes the zero of its sign, every other pattern stays. -/
def flush (f : Word) : Word :=
  if 0 < abs32 f ∧ abs32 f < 0x00800000 then BitVec.ofNat 32 (f.toNat / 2 ^ 31 * 2 ^ 31) else f

/-- The sign of a binary32 pattern as bit 15 (R81). -/
def signBit16 (f : Word) : Nat := f.toNat / 2 ^ 31 * 2 ^ 15

/-- A binary32 pattern that equals some binary16 value (R91): an infinity, or a finite value that a binary16 pattern
also has. -/
def isHalfValue (f : Word) : Prop := inf32 f ∨ ∃ v k, val32 f = some v ∧ val16 k = some v

/-! ## The comparators' final tests -/

/-- R102's distance by the closed forms R102 derives: equal signs, or `p` the magnitude of the non-negative operand and
`q` that of the negative one. -/
def dist32 (d : Config.Ulp32Diff) (s r : Word) : Int :=
  if s.toNat / 2 ^ 31 = r.toNat / 2 ^ 31 then |(s.toNat : Int) - r.toNat|
  else
    let p : Int := if s.toNat < 2 ^ 31 then abs32 s else abs32 r
    let q : Int := if s.toNat < 2 ^ 31 then abs32 r else abs32 s
    match d with
    | .wrap32 => 2 ^ 31 - |p - q|
    | .exact => 2 ^ 31 + p - q

/-- R109's distance by the closed forms R109 derives. -/
def dist16 (d : Config.Ulp16Diff) (s r : Half) : Int :=
  if s.toNat / 2 ^ 15 = r.toNat / 2 ^ 15 then |(s.toNat : Int) - r.toNat|
  else
    let p : Int := if s.toNat < 2 ^ 15 then abs16 s else abs16 r
    let q : Int := if s.toNat < 2 ^ 15 then abs16 r else abs16 s
    match d with
    | .wrap16 => 2 ^ 15 - |p - q|
    | .unsigned => 2 ^ 15 + q - p
    | .exact => 2 ^ 15 + p - q

/-- R103's tolerance test. -/
def within (t : Config.TolCmp) (dist tol : Int) : Prop :=
  match t with
  | .math => dist ≤ tol
  | .ucast => dist ≤ tol % 2 ^ 32

/-- R100: the outcome of a 32-bit comparator whose final test is `final`. -/
def verdict32 (m : DenormMode) (s r : Word) (final : Prop) : Prop :=
  valueEq s r ∨
  (nan32 s ∧ nan32 r) ∨
  (¬ nan32 s ∧ m = .any ∧ den32 r ∧ abs32 s = 0 ∧ (neg32 s ↔ neg32 r)) ∨
  (¬ nan32 s ∧ final)

/-- R108: the outcome of a 16-bit comparator whose final test is `final`. -/
def verdict16 (s r : Half) (final : Prop) : Prop :=
  s = r ∨ (nan16 s ∧ nan16 r) ∨ (¬ nan16 s ∧ final)

/-- R104's test on the exact distance `d` of two finite values. -/
def epsPasses (e : Config.EpsSub) (d : ℚ) (eps : Word) : Prop :=
  match e with
  | .rne32 => ∃ n : Nat, (n : ℚ) = d * 2 ^ 149 ∧ ¬ nan32 eps ∧ ¬ neg32 eps ∧ (fl32 n).toNat < eps.toNat
  | .exact => eps = 0x7F800000#32 ∨ ∃ v, val32 eps = some v ∧ d < v

/-- R104: the epsilon test. Only finite operands can pass. -/
def epsTest (e : Config.EpsSub) (s r eps : Word) : Prop :=
  ∃ vs vr, val32 s = some vs ∧ val32 r = some vr ∧ epsPasses e |vs - vr| eps

/-- R59: the pattern a non-negative number rounds to. -/
def roundsTo (x : ℚ) (p : Word) : Prop :=
  if x = 0 then p = 0x00000000#32
  else if 2 ^ 128 - 2 ^ 103 ≤ x then p = 0x7F800000#32
  else
    p.toNat < 0x7F800000 ∧
    ∃ v, val32 p = some v ∧
      ∀ q w, q.toNat < 0x7F800000 → val32 q = some w →
        |v - x| ≤ |w - x| ∧ (|v - x| = |w - x| → q = p ∨ p.toNat % 2 = 0)

end Sys2Proof.Spec
end

