-- ==== Sys2Proof/Machine/Assembler.lean ====
section
/-! DEFINITION. The assembler and the host's running of a listing (spec/30_encoding.md rules R72 and R73,
spec/70_reset_and_hazards.md rule R168). This is the host's side and "not a block feature" (R72): nothing that `step`
does depends on it. The spellings and the start states R72 leaves open are
in assumption log entry 15. -/

namespace Sys2Proof.Machine

/-- An operand as a line writes it (R72). -/
inductive Literal where
  /-- `0x` and this many hexadecimal digits, with this value. -/
  | hex (digits value : Nat)
  /-- A decimal integer. -/
  | dec (value : Int)
  /-- `@k`: the `Y` of the k-th response of this listing. -/
  | ref (k : Nat)
deriving DecidableEq, Repr

/-- One line of a listing: an operation in assembler syntax (R72), or a raw request image (R68). -/
inductive AsmLine where
  | instr (mnemonic : String) (suffix : Option String) (operands : List Literal)
  | raw (q : Request)
deriving DecidableEq, Repr

/-! ## Operands. `ys` holds the `Y` of the responses given so far, the first one first. -/

/-- The `Y` of the k-th response, counted from 1; none when there is no such response yet. -/
def refY (ys : List Word) (k : Nat) : Option Word := if k = 0 then none else ys[k - 1]?

/-- A binary32 operand: an 8-digit hexadecimal pattern, or `@k`. -/
def asmWord (ys : List Word) : Literal → Option Word
  | .hex digits v => if digits = 8 ∧ v < 2 ^ 32 then some (BitVec.ofNat 32 v) else none
  | .dec _ => none
  | .ref k => refY ys k

/-- A binary16 operand: a 4-digit hexadecimal pattern, or an `@k` whose `Y` is a 16-bit pattern. -/
def asmHalf (ys : List Word) : Literal → Option Half
  | .hex digits v => if digits = 4 ∧ v < 2 ^ 16 then some (BitVec.ofNat 16 v) else none
  | .dec _ => none
  | .ref k => (refY ys k).bind fun y => if y.toNat < 2 ^ 16 then some (y.setWidth 16) else none

/-- A tolerance or relative exponent: a decimal integer of 32 bits in two's complement, an 8-digit hexadecimal
pattern, or `@k`. -/
def asmInt (ys : List Word) : Literal → Option Word
  | .dec v => if -(2 ^ 31) ≤ v ∧ v < 2 ^ 31 then some (BitVec.ofInt 32 v) else none
  | l => asmWord ys l

/-- The mode suffix of a 32-bit comparator; without one the mode is Any (R73). -/
def asmMode : Option String → Option DenormMode
  | none => some .any
  | some "any" => some .any
  | some "preserve" => some .preserve
  | some "ftz" => some .flushToZero
  | some _ => none

/-! ## Lines -/

/-- The instruction of a line in assembler syntax, by R72's list of forms; only the 32-bit comparators take a suffix. -/
def assembleInstr (ys : List Word) (mnemonic : String) (suffix : Option String) (operands : List Literal) :
    Option Instr :=
  match mnemonic, suffix, operands with
  | "ENC16", none, [f] => (asmWord ys f).map .enc16
  | "DEC32", none, [h] => (asmHalf ys h).map .dec32
  | "ISNAN16", none, [h] => (asmHalf ys h).map .isnan16
  | "CMPULP32", m, [s, r, t] => do return .cmpulp32 (← asmMode m) (← asmWord ys s) (← asmWord ys r) (← asmInt ys t)
  | "CMPULP16", none, [s, r, t] => do return .cmpulp16 (← asmHalf ys s) (← asmHalf ys r) (← asmInt ys t)
  | "CMPEPS32", m, [s, r, e] => do return .cmpeps32 (← asmMode m) (← asmWord ys s) (← asmWord ys r) (← asmWord ys e)
  | "CMPEPS16", none, [s, r, e] => do return .cmpeps16 (← asmHalf ys s) (← asmHalf ys r) (← asmWord ys e)
  | "CMPREL32", m, [s, r, x] => do return .cmprel32 (← asmMode m) (← asmWord ys s) (← asmWord ys r) (← asmInt ys x)
  | "CMPREL16", none, [s, r, x] => do return .cmprel16 (← asmHalf ys s) (← asmHalf ys r) (← asmInt ys x)
  | "ISDEN32", none, [f] => (asmWord ys f).map .isden32
  | "FTZ32", none, [f] => (asmWord ys f).map .ftz32
  | "FEQ32", none, [a, b] => do return .feq32 (← asmWord ys a) (← asmWord ys b)
  | "FEQN32", none, [a, b] => do return .feqn32 (← asmWord ys a) (← asmWord ys b)
  | _, _, _ => none

/-- The request of a line; none when the assembler rejects the line. One line is one request (R72, R73), and a reserved
encoding can be written only as a raw image (R72). -/
def assemble (ys : List Word) : AsmLine → Option Request
  | .instr mnemonic suffix operands => (assembleInstr ys mnemonic suffix operands).map encode
  | .raw q => some q

/-- The host runs the lines of a listing one after the other: each line is assembled with the responses this listing has
been given so far, issued, and answered before the next line is looked at (R72 `@k`, R164, R168). The listing's responses
are those after the first `before` of the state, paired by position (R167). None when a line is rejected. -/
def runLines (before : Nat) (s : State) : List AsmLine → Option State
  | [] => some s
  | l :: ls =>
    match assemble ((s.responses.drop before).map Response.y) l with
    | none => none
    | some q =>
      match step (s.issue q) with
      | .next t => runLines before t ls
      | .fault _ => none
      | .refused _ => none

/-- The host runs a listing. The spec gives every listing the same start state, in which nothing waits and nothing was
answered. DESIGN CHOICE (log 15) for every other start state: the host first waits for the requests issued before the
listing, so that they are answered first, and neither their responses nor earlier ones count in `@k`, which R72 counts
"of this listing". -/
def runListing (s : State) (ls : List AsmLine) : Option State :=
  match run s.pending.length s with
  | .next t => runLines t.responses.length t ls
  | .fault _ => none
  | .refused _ => none

/-! ## Text -/

/-- A space or a tab. -/
def isBlank (c : Char) : Bool := c == ' ' || c == '\t'

/-- A text without the blanks at its two ends. -/
def trimBlanks (cs : List Char) : List Char :=
  ((cs.dropWhile isBlank).reverse.dropWhile isBlank).reverse

/-- The digits of R72's literals, each at the place that is its value. The first ten are the decimal digits. -/
def digitMarks : List Char := "0123456789ABCDEF".toList

/-- The value of a digit in the given base: its place among the digits of that base. R72 prints capital letters; small
ones are read alike (log 15). -/
def digitValue (base : Nat) (c : Char) : Option Nat := (digitMarks.take base).idxOf? c.toUpper

/-- A number of at least one digit, the most significant digit first; none when some character is no digit of the
base. -/
def readNumber (base : Nat) (cs : List Char) : Option Nat :=
  if cs = [] then none
  else (cs.mapM (digitValue base)).map fun ds => Nat.ofDigits base ds.reverse

/-- A literal of R72. -/
def parseLiteral (cs : List Char) : Option Literal :=
  match cs with
  | '0' :: 'x' :: ds => (readNumber 16 ds).map (.hex ds.length)
  | '@' :: ds => (readNumber 10 ds).map .ref
  | '-' :: ds => (readNumber 10 ds).map fun n => .dec (-(n : Int))
  | ds => (readNumber 10 ds).map fun n => .dec n

/-- One field of a raw image: `NAME=0x` and exactly `digits` hexadecimal digits. -/
def parseField (name : List Char) (digits : Nat) (cs : List Char) : Option Nat :=
  if cs.take (name.length + 3) = name ++ ['=', '0', 'x'] ∧ cs.length = name.length + 3 + digits then
    readNumber 16 (cs.drop (name.length + 3))
  else none

/-- A raw image (R68): `CTL=0x.. A=0x........ B=0x........ C=0x........`. -/
def parseRaw (cs : List Char) : Option AsmLine :=
  match (cs.splitOn ' ').filter (fun w => w ≠ []) with
  | [k, a, b, c] => do
    let k ← parseField ['C', 'T', 'L'] 2 k
    let a ← parseField ['A'] 8 a
    let b ← parseField ['B'] 8 b
    let c ← parseField ['C'] 8 c
    return .raw ⟨BitVec.ofNat 8 k, BitVec.ofNat 32 a, BitVec.ofNat 32 b, BitVec.ofNat 32 c⟩
  | _ => none

/-- An operation in assembler syntax: `MNEMONIC[.suffix] operand, operand, …`. -/
def parseInstr (cs : List Char) : Option AsmLine :=
  let head := cs.takeWhile fun c => !isBlank c
  let rest := cs.dropWhile fun c => !isBlank c
  let mnemonic := head.takeWhile (· ≠ '.')
  let suffix := head.dropWhile (· ≠ '.')
  ((rest.splitOn ',').map trimBlanks).mapM parseLiteral |>.map fun operands =>
    .instr (String.ofList mnemonic)
      (match suffix with
       | [] => none
       | _ :: sfx => some (String.ofList sfx)) operands

/-- One line of text. A comment starts with `;`. `some none` is a line without a request, `none` one that the assembler
rejects. -/
def parseLine (cs : List Char) : Option (Option AsmLine) :=
  let body := trimBlanks (cs.takeWhile (· ≠ ';'))
  if body = [] then some none
  else if body.take 4 = ['C', 'T', 'L', '='] then (parseRaw body).map some
  else (parseInstr body).map some

/-- A listing: one line a request, blank and comment lines left out. -/
def parseListing (text : String) : Option (List AsmLine) :=
  ((text.toList.splitOn '\n').mapM parseLine).map (List.filterMap id)

/-- Assemble and run a listing from a state. -/
def runText (s : State) (text : String) : Option State := (parseListing text).bind (runListing s)

end Sys2Proof.Machine
end

