-- ==== Sys2Proof/Certificates/Slice0/Obligations.lean ====
section
/-! DEFINITION. The statements for the provers. Where a statement says `answered s y` or `answeredBool s b`, it says
the whole next state: one response more, with `ILL = 0` and `CAUSE = 0`, and every other field as it was (the frame). -/

open Sys2Proof Sys2Proof.Machine Sys2Proof.Spec

/-! ## Reset, the step, and the interface -/

/-- The model's reset state: nothing waits and nothing has been answered (the model's reading of R160, log 1), and the
parameters are R5's defaults (log 2). It says nothing about the draw count. -/
def Obligations.ResetStateHoldsNothing : Prop :=
  State.reset.pending = [] ∧ State.reset.responses = [] ∧
  State.reset.params.encOvf = .inf ∧ State.reset.params.ulp32 = .wrap32 ∧ State.reset.params.ulp16 = .wrap16 ∧
  State.reset.params.tolCmp = .math ∧ State.reset.params.epsSub = .rne32

/-- When the oldest waiting request decodes to an instruction, the step is the instruction's meaning at the state
without that request (R141). -/
def Obligations.StepRunsDecodedRequest : Prop :=
  ∀ s q qs i, s.pending = q :: qs → decode q = .op i → step s = exec i { s with pending := qs }

/-- R142 and R143: a reserved control field is answered with `ILL = 1` and the first cause that applies, in the order
3, 1, 2; the request is gone, and what was there stays. The value of `Y` is left open (R144), and so is the draw count. -/
def Obligations.ReservedControlIsAnsweredWithFirstCause : Prop :=
  ∀ s q qs, s.pending = q :: qs →
    let illegalAnswer (cause : BitVec 2) : Prop :=
      ∃ y n, step s = .next { s with pending := qs, responses := s.responses ++ [⟨y, true, cause⟩], draws := n }
    (rsvBits q ≠ 0 → illegalAnswer 3#2) ∧
    (rsvBits q = 0 → 13 ≤ opBits q → illegalAnswer 1#2) ∧
    (rsvBits q = 0 → (opBits q = 3 ∨ opBits q = 5 ∨ opBits q = 7) → modeBits q = 3 → illegalAnswer 2#2)

/-- R140: a request with a legal control field gets an ordinary response, whatever its operands are. -/
def Obligations.NoOperandMakesARequestIllegal : Prop :=
  ∀ s q qs, s.pending = q :: qs → legal q →
    ∃ y n, step s = .next { s with pending := qs, responses := s.responses ++ [⟨y, false, 0#2⟩], draws := n }

/-- R144 as the model takes it (log 3): `Y` of an illegal request is the draw at the current count, and the count
advances, so that the next illegal request draws another value. It holds for every value of the count. -/
def Obligations.IllegalResultIsAFreshDraw : Prop :=
  ∀ s q qs, s.pending = q :: qs → ¬ legal q →
    ∃ c, step s = .next { s with pending := qs, responses := s.responses ++ [⟨Config.freeY s.draws, true, c⟩], draws := s.draws + 1 }

/-- R69: the decoder refuses exactly the requests one of R69's three conditions holds of, and the well-formedness check
agrees. -/
def Obligations.DecodeRefusesExactlyReservedControl : Prop :=
  ∀ q, ((∃ i, decode q = .op i) ↔ legal q) ∧ (Request.wellFormed q = true ↔ legal q)

/-- The counts of 95_test_vectors.md section 2.14: of the 256 control values 49 are legal, 12 have cause 1, 3 cause 2 and
192 cause 3. -/
def Obligations.ControlValuesByOutcome : Prop :=
  let outcome (k : Nat) : Decoded := decode ⟨BitVec.ofNat 8 k, 0#32, 0#32, 0#32⟩
  let all := List.range 256
  (all.filter fun k => outcome k == .illegal .reservedOp).length = 12 ∧
  (all.filter fun k => outcome k == .illegal .reservedMode).length = 3 ∧
  (all.filter fun k => outcome k == .illegal .reservedBits).length = 192 ∧
  (all.filter fun k => (decodeTableWord 8 k).isSome).length = 49

/-- Decoding the packed image of an instruction gives it back, for all 13 operations and every operand (every term of
`Instr` is well formed). -/
def Obligations.DecodeImageOfEncodeImage : Prop := ∀ i : Instr, decodeImage (encodeImage i) = .op i

/-- The other direction: what a request decodes to holds every bit the operation reads. Encoding it gives the request
back with exactly the bits R65 calls ignored set to zero. That the encoder writes zero there, the mode field included, is
the model's choice (log 7); R65 does not say it. -/
def Obligations.EncodeOfDecodeKeepsEveryReadBit : Prop :=
  ∀ q i, decode q = .op i → encode i = readPart q

/-- R65: "ignored" fields have no effect on the response. Two requests that differ only in them, both put in front of one
state, give the same step. Where the answer is a draw (an illegal request, or ENC16 on the overflow band under ANY), that
the two draws are equal rests on the model's form of a free value (log 3): both are taken at the same count, while R144 and
R29 let them differ. That an illegal request, which has no row in R65, is answered without its ports is R141 to R143. -/
def Obligations.IgnoredFieldsHaveNoEffect : Prop :=
  ∀ (s : State) q q' qs, readPart q = readPart q' →
    step { s with pending := q :: qs } = step { s with pending := q' :: qs }

/-- No control byte matches two rows of the opcode table. -/
def Obligations.OpcodeRowsAreDisjoint : Prop :=
  opcodeTable.Pairwise fun r r' => ∀ ctl : BitVec 8, ¬ (ctl &&& r.mask = r.pattern ∧ ctl &&& r'.mask = r'.pattern)

/-- The decoder follows the opcode table: a decoded instruction's row matches its control byte, and a control byte that
matches a row decodes to that row's instruction, or is illegal because its operation reads the mode (3, 5 or 7) and finds
the reserved mode `11` (R69 condition 3). -/
def Obligations.DecodeFollowsOpcodeTable : Prop :=
  (∀ q i, decode q = .op i → ∃ r ∈ opcodeTable, r.mnemonic = i.mnemonic ∧ q.ctl &&& r.mask = r.pattern) ∧
  (∀ q, ∀ r ∈ opcodeTable, q.ctl &&& r.mask = r.pattern →
    (∃ i, decode q = .op i ∧ i.mnemonic = r.mnemonic) ∨
      (readsMode (opBits q) = true ∧ modeBits q = 3 ∧ decode q = .illegal .reservedMode))

/-- A few control words written out from R62 to R64 decode to the instructions they stand for. -/
def Obligations.WrittenOutWordsDecode : Prop :=
  decode ⟨0b00000000#8, 0x3F800000#32, 7#32, 9#32⟩ = .op (.enc16 0x3F800000#32) ∧
  decode ⟨0b00110001#8, 0xABCD3C00#32, 0#32, 0#32⟩ = .op (.dec32 0x3C00#16) ∧
  decode ⟨0b00010011#8, 1#32, 2#32, 3#32⟩ = .op (.cmpulp32 .preserve 1#32 2#32 3#32) ∧
  decode ⟨0b00100101#8, 1#32, 2#32, 3#32⟩ = .op (.cmpeps32 .flushToZero 1#32 2#32 3#32) ∧
  decode ⟨0b00110100#8, 0xFFFF3C00#32, 0x12343C01#32, 1#32⟩ = .op (.cmpulp16 0x3C00#16 0x3C01#16 1#32) ∧
  decode ⟨0b00001100#8, 1#32, 2#32, 3#32⟩ = .op (.feqn32 1#32 2#32)

/-- R68: where the packed images hold their fields, and that a request is read back from its image. -/
def Obligations.PackedImagesFollowTheLayout : Prop :=
  (∀ q : Request, q.toImage.toNat = q.ctl.toNat + q.a.toNat * 2 ^ 8 + q.b.toNat * 2 ^ 40 + q.c.toNat * 2 ^ 72 ∧
    Request.ofImage q.toImage = q) ∧
  (∀ w : BitVec 104, (Request.ofImage w).toImage = w) ∧
  (∀ r : Response, r.toImage.toNat = r.y.toNat + (if r.ill then 2 ^ 32 else 0) + r.cause.toNat * 2 ^ 33)

/-- R30: every request gets exactly one response, and none is refused, retried or blocked. Each step answers the oldest
waiting request, whatever it holds, and the responses given before stay. -/
def Obligations.EveryRequestGetsExactlyOneResponse : Prop :=
  ∀ s q qs, s.pending = q :: qs → ∃ t r, step s = .next t ∧ t.pending = qs ∧ t.responses = s.responses ++ [r]

/-- The model's choice (log 4): a step with no request waiting changes nothing, and no step changes the parameters. -/
def Obligations.IdleStepAndFixedParameters : Prop :=
  ∀ s, (s.pending = [] → step s = .next s) ∧ ∀ t, step s = .next t → t.params = s.params

/-- R29: the response depends on the request alone. Two states that agree on the parameters and on the oldest waiting
request (and, where the answer is a draw, on the draw count) answer it alike, whatever else they hold. The case of a draw
rests on the model's form of a free value (log 3): draws at equal counts are equal in the model, and R29 and R144 except
them. -/
def Obligations.ResponseDependsOnTheRequestAlone : Prop :=
  ∀ s s' q qs qs', s.pending = q :: qs → s'.pending = q :: qs' → s.params = s'.params →
    (Request.draws s.params q = false ∨ s.draws = s'.draws) →
    ∃ r t t', step s = .next t ∧ step s' = .next t' ∧
      t.responses = s.responses ++ [r] ∧ t'.responses = s'.responses ++ [r]

/-- R146: a request after an illegal one is answered exactly as if the illegal one had never been issued, and it is
answered in any case (here for a request whose answer is no draw). -/
def Obligations.IllegalRequestLeavesNoTrace : Prop :=
  ∀ s bad q qs, s.pending = q :: qs → ¬ legal bad → Request.draws s.params q = false →
    ∃ r t t' t'', step s = .next t ∧ t.responses = s.responses ++ [r] ∧ t.pending = qs ∧
      step { s with pending := bad :: q :: qs } = .next t' ∧ step t' = .next t'' ∧
      t''.responses = t'.responses ++ [r] ∧ t''.pending = qs ∧ t''.params = s.params

/-- Running as many steps as requests wait answers each of them by itself, in the order of issue, and leaves nothing
waiting (R166, R167, R168). `respondAll` answers each request alone, from reset, with the draw count the model has come to;
the draw counts, and that a draw depends on its count alone, are the model's form of a free value (log 3). -/
def Obligations.RunAnswersEveryRequestInOrder : Prop :=
  ∀ s : State,
    run s.pending.length s =
      .next { s with
        pending := []
        responses := s.responses ++ respondAll s.params s.draws s.pending
        draws := drawsAfterAll s.params s.draws s.pending } ∧
    (respondAll s.params s.draws s.pending).length = s.pending.length

/-- The invariant holds at reset. -/
def Obligations.CoherentAtReset : Prop := State.reset.coherent = true

/-- R28, R142: from every state whose responses all have `CAUSE = 0` exactly when `ILL = 0`, a step gives such a
state. -/
def Obligations.StepKeepsResponsesCoherent : Prop :=
  ∀ s t, s.coherent = true → step s = .next t → t.coherent = true

/-- R161 and R162, as the model takes a reset (log 12): it discards the waiting requests, and no response is ever
delivered for them. Whatever list `qs` the host issues after the reset, a run of at least as many steps adds exactly the
responses of `qs`, in order, to those delivered before. (With `qs` empty: nothing is added, however long the run.) The draw
counts are the model's form of a free value (log 3). -/
def Obligations.ResetDiscardsWaitingRequests : Prop :=
  ∀ (s : State) (qs : List Request) (n : Nat),
    run (qs.length + n) (qs.foldl (fun t q => t.issue q) s.resetEvent) =
      .next { s with
        pending := []
        responses := s.responses ++ respondAll s.params s.draws qs
        draws := drawsAfterAll s.params s.draws qs } ∧
    (respondAll s.params s.draws qs).length = qs.length

/-! ## Formats -/

/-- R52 and R53: the class of a pattern is decided by its fields, and the five conditions are the only ones. -/
def Obligations.ClassesFollowTheFields : Prop :=
  (∀ x : Word,
    let e := x.toNat / 2 ^ 23 % 2 ^ 8
    let m := x.toNat % 2 ^ 23
    (classify32 x = .zero ↔ e = 0 ∧ m = 0) ∧ (classify32 x = .denormal ↔ e = 0 ∧ m ≠ 0) ∧
    (classify32 x = .normal ↔ 1 ≤ e ∧ e ≤ 0xFE) ∧ (classify32 x = .infinity ↔ e = 0xFF ∧ m = 0) ∧
    (classify32 x = .nan ↔ e = 0xFF ∧ m ≠ 0)) ∧
  (∀ h : Half,
    let e := h.toNat / 2 ^ 10 % 2 ^ 5
    let m := h.toNat % 2 ^ 10
    (classify16 h = .zero ↔ e = 0 ∧ m = 0) ∧ (classify16 h = .denormal ↔ e = 0 ∧ m ≠ 0) ∧
    (classify16 h = .normal ↔ 1 ≤ e ∧ e ≤ 0x1E) ∧ (classify16 h = .infinity ↔ e = 0x1F ∧ m = 0) ∧
    (classify16 h = .nan ↔ e = 0x1F ∧ m ≠ 0) ∧
    (classify16 h = .zero ↔ abs16 h = 0) ∧ (classify16 h = .denormal ↔ 1 ≤ abs16 h ∧ abs16 h ≤ 0x03FF) ∧
    (classify16 h = .normal ↔ 0x0400 ≤ abs16 h ∧ abs16 h ≤ 0x7BFF) ∧ (classify16 h = .infinity ↔ abs16 h = 0x7C00) ∧
    (classify16 h = .nan ↔ 0x7C01 ≤ abs16 h))

/-- R54 and R55: the predicates the meanings use, by magnitude. -/
def Obligations.PredicatesFollowTheMagnitude : Prop :=
  (∀ x : Word, (isNaN32 x = true ↔ nan32 x) ∧ (isInf32 x = true ↔ inf32 x) ∧ (isZero32 x = true ↔ abs32 x = 0) ∧
    (isDenormal32 x = true ↔ den32 x) ∧ (sign32 x = true ↔ neg32 x)) ∧
  (∀ h : Half, isNaN16 h = true ↔ nan16 h)

/-- R58: the equality of step 1 is equality of values: both patterns have a value in the extended reals, and it is the
same one. It also is R58's chain of tests. -/
def Obligations.ValueEqualityIsEqualityOfValues : Prop :=
  ∀ p q : Word, (valEq32 p q = true ↔ valueEq p q) ∧
    (valEq32 p q = true ↔ ∃ v, extVal32 p = some v ∧ extVal32 q = some v)

/-- R56 and R57: the integers the meanings compute with are the real values, in units of the smallest denormal (log 8);
an infinity is the infinity of its sign in the extended reals, and a NaN has no value. A unit of binary16 is 2^125 units of
binary32. -/
def Obligations.UnitsAreRealValues : Prop :=
  (∀ x : Word, val32 x = if isNaN32 x || isInf32 x then none else some ((units32 x : ℚ) * (2 : ℚ) ^ (-149 : ℤ))) ∧
  (∀ h : Half, val16 h = if 0x7C00 ≤ abs16 h then none else some ((units16 h : ℚ) * (2 : ℚ) ^ (-24 : ℤ))) ∧
  (∀ x : Word, extVal32 x =
    if nan32 x then none else if x = 0x7F800000#32 then some .posInf else if x = 0xFF800000#32 then some .negInf
    else some (.fin (units32 x))) ∧
  (∀ h : Half, extVal16 h =
    if nan16 h then none else if h = 0x7C00#16 then some .posInf else if h = 0xFC00#16 then some .negInf
    else some (.fin (units16 h * 2 ^ 125)))

/-- R59: `fl32` rounds to the nearest binary32 value, ties to even, with gradual underflow and overflow to infinity, for
every number the epsilon test can round (a natural multiple of 2^-149). -/
def Obligations.RoundingIsToNearestEven : Prop :=
  ∀ n : Nat, roundsTo ((n : ℚ) * (2 : ℚ) ^ (-149 : ℤ)) (fl32 n)

/-- R60: less-than of patterns is less-than of their values in the extended reals, and false on a NaN. -/
def Obligations.LessThanComparesValues : Prop :=
  ∀ p q : Word, lt32 p q = true ↔
    ¬ nan32 p ∧ ¬ nan32 q ∧
    ((p = 0xFF800000#32 ∧ q ≠ 0xFF800000#32) ∨ (p ≠ 0x7F800000#32 ∧ q = 0x7F800000#32) ∨
      ∃ v w, val32 p = some v ∧ val32 q = some w ∧ v < w)

/-- R61: the named constants and their values. -/
def Obligations.NamedConstantsHaveTheirValues : Prop :=
  min16In32 = 0x38800000#32 ∧ max16In32 = 0x477FE000#32 ∧ max32 = 0x7F7FFFFF#32 ∧ frac32Mask = 0x007FFFFF#32 ∧
  denormRatio = 0x4B800000#32 ∧ normalDelta = 0x38000000#32 ∧ biggestDenorm16 = 0x03FF#16 ∧
  biggestNormal16 = 0x7BFF#16 ∧ denormDecodeRatio = 0x33800000#32 ∧ infDecodeDelta = 0x70000000#32 ∧
  sign32Mask = 0x80000000#32 ∧ sign16Mask = 0x8000#16 ∧ exp16Mask = 0x7C00#16 ∧ frac16Mask = 0x03FF#16 ∧
  mant32Bits = 23 ∧ mant16Bits = 10 ∧
  val32 min16In32 = some ((2 : ℚ) ^ (-14 : ℤ)) ∧ val32 max16In32 = some 65504 ∧
  val32 max32 = some ((2 - (2 : ℚ) ^ (-23 : ℤ)) * 2 ^ 127) ∧ val32 denormRatio = some (2 ^ 24) ∧
  val32 normalDelta = some ((2 : ℚ) ^ (-15 : ℤ)) ∧ val32 denormDecodeRatio = some ((2 : ℚ) ^ (-24 : ℤ)) ∧
  val16 biggestDenorm16 = some (1023 * (2 : ℚ) ^ (-24 : ℤ)) ∧ val16 biggestNormal16 = some 65504

/-! ## ENC16 -/

/-- R84: on the normal range ENC16 rebiases the magnitude, discards its 13 low bits, and ORs in the sign. -/
def Obligations.EncodeNormalRange : Prop :=
  ∀ f s, 0x38800000 ≤ abs32 f → abs32 f ≤ 0x477FE000 →
    let mag := (abs32 f - 0x38000000) / 2 ^ 13
    exec (.enc16 f) s = .next (answered s (BitVec.ofNat 32 (mag + signBit16 f))) ∧ 0x0400 ≤ mag ∧ mag ≤ 0x7BFF

/-- R82: below 2^-14 the magnitude of ENC16 is the integer part of the magnitude's value times 2^24. -/
def Obligations.EncodeDenormalRange : Prop :=
  ∀ f s, abs32 f < 0x38800000 →
    ∃ v, val32 (BitVec.ofNat 32 (abs32 f)) = some v ∧ 0 ≤ ⌊v * 2 ^ 24⌋ ∧ ⌊v * 2 ^ 24⌋ ≤ 0x03FF ∧
      exec (.enc16 f) s = .next (answered s (BitVec.ofNat 32 (⌊v * 2 ^ 24⌋.toNat + signBit16 f)))

/-- R83: an infinity encodes to the infinity of its sign, and every NaN to the all-ones NaN of its sign. -/
def Obligations.EncodeInfinitiesAndNaNs : Prop :=
  ∀ f s, (inf32 f → exec (.enc16 f) s = .next (answered s (BitVec.ofNat 32 (0x7C00 + signBit16 f)))) ∧
    (nan32 f → exec (.enc16 f) s = .next (answered s (BitVec.ofNat 32 (0x7FFF + signBit16 f))))

/-- R85: the overflow band, by `P_ENC_OVF`. Under `ANY` the whole 16-bit result is a draw, `Y[31:16]` is 0, and the draw
count advances: that clause is the model's form of a free value (log 3), and it holds for every value of the count. -/
def Obligations.EncodeOverflowBand : Prop :=
  ∀ f s, band f →
    (s.params.encOvf = .inf → exec (.enc16 f) s = .next (answered s (BitVec.ofNat 32 (0x7C00 + signBit16 f)))) ∧
    (s.params.encOvf = .raw → exec (.enc16 f) s = .next (answered s
      ((BitVec.ofNat 16 ((abs32 f - 0x38000000) / 2 ^ 13) ||| BitVec.ofNat 16 (signBit16 f)).setWidth 32))) ∧
    (s.params.encOvf = .any → exec (.enc16 f) s =
      .next { answered s ((Config.freeHalf s.draws).setWidth 32) with draws := s.draws + 1 })

/-- R81: the sign is ORed in last. Unless the result is a draw, ENC16 of `f` is ENC16 of its magnitude with the sign ORed
in; and except under `RAW` or `ANY` in the overflow band, flipping the input's sign flips the result's. -/
def Obligations.EncodeSignIsOredInLast : Prop :=
  ∀ f s,
    (¬ (s.params.encOvf = .any ∧ band f) →
      ∃ mag : Half, exec (.enc16 (BitVec.ofNat 32 (abs32 f))) s = .next (answered s (mag.setWidth 32)) ∧
        exec (.enc16 f) s = .next (answered s ((mag ||| BitVec.ofNat 16 (signBit16 f)).setWidth 32))) ∧
    ((s.params.encOvf = .inf ∨ ¬ band f) →
      ∃ h : Half, exec (.enc16 f) s = .next (answered s (h.setWidth 32)) ∧
        exec (.enc16 (f ^^^ 0x80000000#32)) s = .next (answered s ((h ^^^ 0x8000#16).setWidth 32)))

/-- ENC16 answers every request with a binary16 pattern in `Y[15:0]` and zeros above, and only ever changes the draw
count beside (R67, R80); and its encoding: operation 0, `f = A`, everything else ignored. -/
def Obligations.EncodeAlwaysAnswersAHalf : Prop :=
  encodedBy 0 (fun q => .enc16 q.a) ∧
  ∀ f s, ∃ (h : Half) (n : Nat), exec (.enc16 f) s = .next { answered s (h.setWidth 32) with draws := n } ∧
    (¬ (s.params.encOvf = .any ∧ band f) → n = s.draws)

/-- R88: on finite inputs of magnitude at most 65504, ENC16 rounds toward zero: the result has the input's sign, and its
magnitude is the largest binary16 value not above the input's magnitude. -/
def Obligations.EncodeRoundsTowardZero : Prop :=
  ∀ f s, abs32 f ≤ 0x477FE000 →
    ∃ (h : Half) (v u : ℚ), exec (.enc16 f) s = .next (answered s (h.setWidth 32)) ∧ (neg16 h ↔ neg32 f) ∧
      val32 (BitVec.ofNat 32 (abs32 f)) = some v ∧ val16 (BitVec.ofNat 16 (abs16 h)) = some u ∧ u ≤ v ∧
      ∀ (k : Half) (w : ℚ), val16 k = some w → w ≤ v → w ≤ u

/-! ## DEC32 and ISNAN16 -/

/-- R86: DEC32's encoding and operand, and the pattern it gives on each of its paths. -/
def Obligations.DecodeResultByRange : Prop :=
  encodedBy 1 (fun q => .dec32 (lowHalf q.a)) ∧
  ∀ (h : Half) s,
    let a := abs16 h
    let k := Nat.log2 a
    let sgn := h.toNat / 2 ^ 15 * 2 ^ 31
    exec (.dec32 h) s = .next (answered s (BitVec.ofNat 32 (sgn +
      (if 0x7BFF < a then a * 2 ^ 13 + 0x70000000
       else if 0x03FF < a then a * 2 ^ 13 + 0x38000000
       else if a = 0 then 0
       else (k + 103) * 2 ^ 23 + (a - 2 ^ k) * 2 ^ (23 - k)))))

/-- R87: DEC32 is exact: value (in the extended reals, an infinity's too) and sign of every non-NaN are kept, and a NaN's payload is shifted
up by 13 bits; and the pattern of a denormal, by the index `k` of its highest set bit. -/
def Obligations.DecodeIsExact : Prop :=
  ∀ (h : Half) s, ∃ w : Word, exec (.dec32 h) s = .next (answered s w) ∧ (neg32 w ↔ neg16 h) ∧
    (¬ nan16 h → val32 w = val16 h ∧ extVal32 w = extVal16 h) ∧ (abs16 h = 0x7C00 → inf32 w) ∧
    (nan16 h → abs32 w = 0x7F800000 + h.toNat % 2 ^ 10 * 2 ^ 13) ∧
    (abs16 h = 0 → abs32 w = 0) ∧
    (∀ k, k ≤ 9 → 2 ^ k ≤ abs16 h → abs16 h < 2 ^ (k + 1) →
      abs32 w = (k + 103) * 2 ^ 23 + (abs16 h - 2 ^ k) * 2 ^ (23 - k))

/-- R89: encoding what DEC32 gave is the identity on every non-NaN, sign included, and gives the all-ones NaN of its sign
on every NaN, under every parameter setting. -/
def Obligations.EncodeOfDecodeIsTheIdentity : Prop :=
  ∀ (h : Half) s s', ∃ w : Word, exec (.dec32 h) s = .next (answered s w) ∧
    (¬ nan16 h → exec (.enc16 w) s' = .next (answered s' (h.setWidth 32))) ∧
    (nan16 h → exec (.enc16 w) s' = .next (answered s' ((0x7FFF#16 ||| (h &&& 0x8000#16)).setWidth 32)))

/-- R91: decoding what ENC16 gave returns the input exactly for the inputs that equal some binary16 value, and for the two
NaNs with an all-ones binary16 payload. -/
def Obligations.DecodeOfEncodeFixesHalfValues : Prop :=
  ∀ f s, ∃ (h : Half) (n : Nat) (w : Word),
    exec (.enc16 f) s = .next { answered s (h.setWidth 32) with draws := n } ∧
    (∀ s', exec (.dec32 h) s' = .next (answered s' w)) ∧
    (w = f ↔ isHalfValue f ∨ f = 0x7FFFE000#32 ∨ f = 0xFFFFE000#32)

/-- R90: ISNAN16's encoding and operand; it tests for an all-ones exponent and a nonzero mantissa. -/
def Obligations.NaNTestResult : Prop :=
  encodedBy 2 (fun q => .isnan16 (lowHalf q.a)) ∧
  ∀ (h : Half) s, ∃ b, exec (.isnan16 h) s = .next (answeredBool s b) ∧
    (b = true ↔ h.toNat / 2 ^ 10 % 2 ^ 5 = 0x1F ∧ h.toNat % 2 ^ 10 ≠ 0)

/-! ## The comparators -/

/-- R105 with R100, R102 and R103: CMPULP32's encoding and operands, and its result. -/
def Obligations.CompareUlp32Result : Prop :=
  encodedWithMode 3 (fun m q => .cmpulp32 m q.a q.b q.c) ∧
  ∀ m s r c st, ∃ b, exec (.cmpulp32 m s r c) st = .next (answeredBool st b) ∧
    (b = true ↔ verdict32 m s r (within st.params.tolCmp (dist32 st.params.ulp32 s r) (signed c)))

/-- R107: the result of CMPREL32, with the exact tolerance `23 - relexp`; where that is a 32-bit number, CMPULP32 with it
answers the same. -/
def Obligations.CompareRelative32Result : Prop :=
  encodedWithMode 7 (fun m q => .cmprel32 m q.a q.b q.c) ∧
  ∀ m s r c st, ∃ b, exec (.cmprel32 m s r c) st = .next (answeredBool st b) ∧
    (b = true ↔ verdict32 m s r (within st.params.tolCmp (dist32 st.params.ulp32 s r) (23 - signed c))) ∧
    ∀ t, signed t = 23 - signed c → exec (.cmpulp32 m s r t) st = .next (answeredBool st b)

/-- R106 with R100 and R104: the result of CMPEPS32. -/
def Obligations.CompareEpsilon32Result : Prop :=
  encodedWithMode 5 (fun m q => .cmpeps32 m q.a q.b q.c) ∧
  ∀ m s r eps st, ∃ b, exec (.cmpeps32 m s r eps) st = .next (answeredBool st b) ∧
    (b = true ↔ verdict32 m s r (Spec.epsTest st.params.epsSub s r eps))

/-- R110 with R108, R109 and R103: the result of CMPULP16. -/
def Obligations.CompareUlp16Result : Prop :=
  encodedBy 4 (fun q => .cmpulp16 (lowHalf q.a) (lowHalf q.b) q.c) ∧
  ∀ s r c st, ∃ b, exec (.cmpulp16 s r c) st = .next (answeredBool st b) ∧
    (b = true ↔ verdict16 s r (within st.params.tolCmp (dist16 st.params.ulp16 s r) (signed c)))

/-- R112: the result of CMPREL16, with the exact tolerance `10 - relexp`; where that is a 32-bit number, CMPULP16 with it
answers the same. -/
def Obligations.CompareRelative16Result : Prop :=
  encodedBy 8 (fun q => .cmprel16 (lowHalf q.a) (lowHalf q.b) q.c) ∧
  ∀ s r c st, ∃ b, exec (.cmprel16 s r c) st = .next (answeredBool st b) ∧
    (b = true ↔ verdict16 s r (within st.params.tolCmp (dist16 st.params.ulp16 s r) (10 - signed c))) ∧
    ∀ t, signed t = 10 - signed c → exec (.cmpulp16 s r t) st = .next (answeredBool st b)

/-- R111: the result of CMPEPS16. The final test is the epsilon test on what DEC32 gives for the two halves. -/
def Obligations.CompareEpsilon16Result : Prop :=
  encodedBy 6 (fun q => .cmpeps16 (lowHalf q.a) (lowHalf q.b) q.c) ∧
  ∀ s r eps st, ∃ b ds dr, exec (.cmpeps16 s r eps) st = .next (answeredBool st b) ∧
    exec (.dec32 s) st = .next (answered st ds) ∧ exec (.dec32 r) st = .next (answered st dr) ∧
    (b = true ↔ verdict16 s r (Spec.epsTest st.params.epsSub ds dr eps))

/-- R113: FlushToZero (mode code `10`) and Preserve (`01`) give the same result in every comparator (operations 3 to 8),
for every operand: the same step, from every state. -/
def Obligations.FlushToZeroActsAsPreserve : Prop :=
  ∀ (s : State) a b c qs op, 3 ≤ op → op ≤ 8 →
    step { s with pending := ⟨BitVec.ofNat 8 (0x20 + op), a, b, c⟩ :: qs } =
      step { s with pending := ⟨BitVec.ofNat 8 (0x10 + op), a, b, c⟩ :: qs }

/-- R114: the comparators are not commutative (the rule's four examples, in every state and under every legal mode where
it names none), while the distances and the epsilon test are symmetric. -/
def Obligations.ComparatorsAreNotCommutative : Prop :=
  (∀ m st, exec (.cmpulp32 m 0x7F800000#32 0x7F800001#32 1#32) st = .next (answeredBool st true) ∧
    exec (.cmpulp32 m 0x7F800001#32 0x7F800000#32 1#32) st = .next (answeredBool st false)) ∧
  (∀ st, exec (.cmpulp32 .any 0x00000000#32 0x00000001#32 0#32) st = .next (answeredBool st true) ∧
    exec (.cmpulp32 .any 0x00000001#32 0x00000000#32 0#32) st = .next (answeredBool st false)) ∧
  (∀ d s r, ulpDist32 d s r = ulpDist32 d r s) ∧ (∀ d s r, ulpDist16 d s r = ulpDist16 d r s) ∧
  (∀ e s r eps, Machine.epsTest e s r eps = Machine.epsTest e r s eps)

/-- R115: the source's comparator properties, under every parameter setting (items 1 to 4 in order). -/
def Obligations.ComparatorPropertiesHoldForEveryParameter : Prop :=
  ∀ st,
    (∀ m a b, exec (.cmprel32 m a b 23#32) st = exec (.cmpulp32 m a b 0#32) st) ∧
    (∀ a b, exec (.cmprel16 a b 10#32) st = exec (.cmpulp16 a b 0#32) st) ∧
    (exec (.cmpulp32 .any 0x00000000#32 0x00000001#32 0#32) st = .next (answeredBool st true) ∧
      exec (.cmpulp32 .preserve 0x00000000#32 0x00000001#32 0#32) st = .next (answeredBool st false)) ∧
    (∀ h : Half, ¬ nan16 h → ¬ nan16 (h + 1#16) → (neg16 h ↔ neg16 (h + 1#16)) →
      exec (.cmpulp16 h (h + 1#16) 1#32) st = .next (answeredBool st true) ∧
      exec (.cmpulp16 h (h + 1#16) 0#32) st = .next (answeredBool st false))

/-- R116: NaNs are one class. Every comparator answers true when `src` and `ref` are both NaN, and false when only `src`
is, whatever the payloads, signs, third operand and mode. -/
def Obligations.NaNsAreOneClass : Prop :=
  (∀ m s r c st, nan32 s →
    ∃ b, (b = true ↔ nan32 r) ∧
      exec (.cmpulp32 m s r c) st = .next (answeredBool st b) ∧
      exec (.cmpeps32 m s r c) st = .next (answeredBool st b) ∧
      exec (.cmprel32 m s r c) st = .next (answeredBool st b)) ∧
  (∀ s r c st, nan16 s →
    ∃ b, (b = true ↔ nan16 r) ∧
      exec (.cmpulp16 s r c) st = .next (answeredBool st b) ∧
      exec (.cmpeps16 s r c) st = .next (answeredBool st b) ∧
      exec (.cmprel16 s r c) st = .next (answeredBool st b))

/-- A consequence R104 draws: with `eps` zero or negative, an epsilon comparison is true only by its special cases. -/
def Obligations.NonPositiveEpsilonPassesNoPair : Prop :=
  ∀ eps st, (abs32 eps = 0 ∨ neg32 eps) →
    (∀ m s r, ∃ b, exec (.cmpeps32 m s r eps) st = .next (answeredBool st b) ∧ (b = true ↔ verdict32 m s r False)) ∧
    (∀ s r, ∃ b, exec (.cmpeps16 s r eps) st = .next (answeredBool st b) ∧ (b = true ↔ verdict16 s r False))

/-! ## DenormClassifier -/

/-- R130: ISDEN32. -/
def Obligations.DenormalTestResult : Prop :=
  encodedBy 9 (fun q => .isden32 q.a) ∧
  ∀ (f : Word) s, ∃ b, exec (.isden32 f) s = .next (answeredBool s b) ∧
    (b = true ↔ f.toNat / 2 ^ 23 % 2 ^ 8 = 0 ∧ f.toNat % 2 ^ 23 ≠ 0)

/-- R131: FTZ32, and that it is idempotent. -/
def Obligations.FlushToZeroResult : Prop :=
  encodedBy 10 (fun q => .ftz32 q.a) ∧
  ∀ f s, exec (.ftz32 f) s = .next (answered s (flush f)) ∧ exec (.ftz32 (flush f)) s = .next (answered s (flush f))

/-- R132: FEQ32 is value equality after flushing. -/
def Obligations.FlushedEqualityResult : Prop :=
  encodedBy 11 (fun q => .feq32 q.a q.b) ∧
  ∀ a b s, ∃ v, exec (.feq32 a b) s = .next (answeredBool s v) ∧ (v = true ↔ valueEq (flush a) (flush b))

/-- R133: FEQN32 also holds of two NaNs. -/
def Obligations.FlushedEqualityOrNaNsResult : Prop :=
  encodedBy 12 (fun q => .feqn32 q.a q.b) ∧
  ∀ a b s, ∃ v, exec (.feqn32 a b) s = .next (answeredBool s v) ∧
    (v = true ↔ (nan32 a ∧ nan32 b) ∨ valueEq (flush a) (flush b))

/-- R134: FEQ32 and FEQN32 are commutative and agree when at most one operand is a NaN; ISDEN32 is 1 exactly when FTZ32
changes the pattern. -/
def Obligations.DenormClassifierProperties : Prop :=
  (∀ a b s, exec (.feq32 a b) s = exec (.feq32 b a) s ∧ exec (.feqn32 a b) s = exec (.feqn32 b a) s) ∧
  (∀ a b s, ¬ (nan32 a ∧ nan32 b) → exec (.feqn32 a b) s = exec (.feq32 a b) s) ∧
  (∀ f s, ∃ b g, exec (.isden32 f) s = .next (answeredBool s b) ∧ exec (.ftz32 f) s = .next (answered s g) ∧
    (b = true ↔ g ≠ f))

/-! ## The assembler -/

/-- A line of the assembler's own forms never becomes a reserved encoding, and every port and field its operation ignores
is written as zero (R72, R68). -/
def Obligations.AssemblerEmitsOnlyLegalRequests : Prop :=
  ∀ ys mnemonic suffix operands q, assemble ys (.instr mnemonic suffix operands) = some q → legal q ∧ readPart q = q

/-- A 32-bit comparator written without a suffix assembles with the mode Any, and the mode field of the request is
the suffix's code (R73, R72). -/
def Obligations.OmittedModeIsAny : Prop :=
  ∀ ys mnemonic operands q, mnemonic ∈ ["CMPULP32", "CMPEPS32", "CMPREL32"] →
    (assemble ys (.instr mnemonic none operands) = assemble ys (.instr mnemonic (some "any") operands)) ∧
    (assemble ys (.instr mnemonic none operands) = some q → modeBits q = 0) ∧
    (assemble ys (.instr mnemonic (some "preserve") operands) = some q → modeBits q = 1) ∧
    (assemble ys (.instr mnemonic (some "ftz") operands) = some q → modeBits q = 2)
end

