-- ==== Sys2Proof/Laws/Decode.lean ====
section
/-! SUPPORT. The small lemmas of Decode.lean: the fields of a built control byte, the fields as numbers, the mode code,
and the halves of a port. -/

namespace Sys2Proof

@[simp] theorem ctlOf_op (op : BitVec 4) (m : BitVec 2) : (ctlOf op m).extractLsb' 0 4 = op := by
  revert op m; decide

@[simp] theorem ctlOf_mode (op : BitVec 4) (m : BitVec 2) : (ctlOf op m).extractLsb' 4 2 = m := by
  revert op m; decide

@[simp] theorem ctlOf_rsv (op : BitVec 4) (m : BitVec 2) : (ctlOf op m).extractLsb' 6 2 = 0#2 := by
  revert op m; decide

theorem Request.op_toNat (q : Request) : q.op.toNat = q.ctl.toNat % 16 := by
  simp [Request.op, BitVec.extractLsb'_toNat]

theorem Request.mode_toNat (q : Request) : q.mode.toNat = q.ctl.toNat / 16 % 4 := by
  simp [Request.mode, BitVec.extractLsb'_toNat, Nat.shiftRight_eq_div_pow]

theorem Request.rsv_toNat (q : Request) : q.rsv.toNat = q.ctl.toNat / 64 := by
  simp [Request.rsv, BitVec.extractLsb'_toNat, Nat.shiftRight_eq_div_pow]
  omega

/-- A mode is read back from its code. -/
@[simp] theorem DenormMode.ofCode_code (m : DenormMode) : DenormMode.ofCode m.code = some m := by
  cases m <;> rfl

/-- The reserved code is the only one without a mode. -/
theorem DenormMode.ofCode_eq_none {m : BitVec 2} : DenormMode.ofCode m = none ↔ m = 3#2 := by
  revert m; decide

/-- Everything `ofCode` can answer. -/
theorem DenormMode.ofCode_eq_some {b : BitVec 2} {m : DenormMode} : DenormMode.ofCode b = some m ↔ m.code = b := by
  revert b; cases m <;> decide

theorem halfOf_toNat (x : Word) : (halfOf x).toNat = x.toNat % 2 ^ 16 := by
  simp [halfOf, BitVec.extractLsb'_toNat]

/-- A half put on a port is read back. -/
@[simp] theorem halfOf_setWidth (h : Half) : halfOf (h.setWidth 32) = h := by
  apply BitVec.eq_of_toNat_eq
  have := h.isLt
  rw [halfOf_toNat, BitVec.toNat_setWidth]
  omega

/-- Everything `withMode` can answer. -/
theorem withMode_eq {q : Request} {build : DenormMode → Instr} :
    (q.mode = 3#2 ∧ withMode q build = .illegal .reservedMode) ∨
      ∃ m : DenormMode, m.code = q.mode ∧ withMode q build = .op (build m) := by
  unfold withMode
  split
  · next m h => exact .inr ⟨m, DenormMode.ofCode_eq_some.1 h, rfl⟩
  · next h => exact .inl ⟨DenormMode.ofCode_eq_none.1 h, rfl⟩

end Sys2Proof
end

