-- ==== Sys2Proof/Laws/Formats.lean ====
section
/-! SUPPORT. The fields of a pattern as numbers, and what the shared steps of the comparators can answer. -/

namespace Sys2Proof.Machine

/-! ## Fields -/

theorem exp32_toNat (x : Word) : (exp32 x).toNat = x.toNat / 2 ^ 23 % 2 ^ 8 := by
  simp [exp32, BitVec.extractLsb'_toNat, Nat.shiftRight_eq_div_pow]

theorem mant32_toNat (x : Word) : (mant32 x).toNat = x.toNat % 2 ^ 23 := by
  simp [mant32, BitVec.extractLsb'_toNat]

theorem exp16_toNat (h : Half) : (exp16 h).toNat = h.toNat / 2 ^ 10 % 2 ^ 5 := by
  simp [exp16, BitVec.extractLsb'_toNat, Nat.shiftRight_eq_div_pow]

theorem mant16_toNat (h : Half) : (mant16 h).toNat = h.toNat % 2 ^ 10 := by
  simp [mant16, BitVec.extractLsb'_toNat]

theorem sign32_eq (x : Word) : sign32 x = decide (2 ^ 31 ≤ x.toNat) := by
  rw [sign32, show x.getLsbD 31 = x.msb from rfl, BitVec.msb_eq_decide]

theorem sign16_eq (h : Half) : sign16 h = decide (2 ^ 15 ≤ h.toNat) := by
  rw [sign16, show h.getLsbD 15 = h.msb from rfl, BitVec.msb_eq_decide]

/-- A binary32 pattern is its sign, exponent and mantissa fields. -/
theorem toNat_eq_fields32 (x : Word) :
    x.toNat = (if sign32 x then 2 ^ 31 else 0) + (exp32 x).toNat * 2 ^ 23 + (mant32 x).toNat := by
  have := x.isLt
  rw [exp32_toNat, mant32_toNat, sign32_eq]
  simp only [decide_eq_true_eq]
  split <;> omega

/-! ## Values -/

/-- Everything `extVal32` can answer, by the class of the pattern (R56). -/
theorem extVal32_cases (x : Word) :
    (classify32 x = .nan ∧ extVal32 x = none) ∨
      (classify32 x = .infinity ∧ extVal32 x = some (if sign32 x then .negInf else .posInf)) ∨
      (classify32 x ≠ .nan ∧ classify32 x ≠ .infinity ∧ extVal32 x = some (.fin (units32 x))) := by
  unfold extVal32
  cases h : classify32 x <;> simp

/-- Everything `extVal16` can answer, by the class of the pattern (R57). -/
theorem extVal16_cases (h : Half) :
    (classify16 h = .nan ∧ extVal16 h = none) ∨
      (classify16 h = .infinity ∧ extVal16 h = some (if sign16 h then .negInf else .posInf)) ∨
      (classify16 h ≠ .nan ∧ classify16 h ≠ .infinity ∧ extVal16 h = some (.fin (units16 h * 2 ^ 125))) := by
  unfold extVal16
  cases h : classify16 h <;> simp

/-! ## The comparators' shared steps -/

/-- A special case decided: value equality, a NaN `src`, or the flush of an expected denormal. -/
theorem special32_eq_some {m : DenormMode} {s r : Word} {b : Bool} (h : special32 m s r = some b) :
    (valEq32 s r = true ∧ b = true) ∨ (valEq32 s r = false ∧ isNaN32 s = true ∧ b = isNaN32 r) ∨
      (valEq32 s r = false ∧ isNaN32 s = false ∧ m = .any ∧ isDenormal32 r = true ∧ isZero32 s = true ∧
        sign32 s = sign32 r ∧ b = true) := by
  unfold special32 at h
  split at h
  · simp_all
  · split at h
    · simp_all
    · split at h <;> simp_all

/-- The final test of a 32-bit comparator is reached exactly when no special case applies. -/
theorem special32_eq_none {m : DenormMode} {s r : Word} :
    special32 m s r = none ↔ valEq32 s r = false ∧ isNaN32 s = false ∧
      ¬ (m = .any ∧ isDenormal32 r = true ∧ isZero32 s = true ∧ sign32 s = sign32 r) := by
  unfold special32
  split
  · simp_all
  · split
    · simp_all
    · split <;> simp_all

/-- A special case of a 16-bit comparator decided: equal bits, or a NaN `src`. -/
theorem special16_eq_some {s r : Half} {b : Bool} (h : special16 s r = some b) :
    (s = r ∧ b = true) ∨ (s ≠ r ∧ isNaN16 s = true ∧ b = isNaN16 r) := by
  unfold special16 at h
  split at h
  · simp_all
  · split at h <;> simp_all

/-- The final test of a 16-bit comparator is reached exactly when no special case applies. -/
theorem special16_eq_none {s r : Half} : special16 s r = none ↔ s ≠ r ∧ isNaN16 s = false := by
  unfold special16
  split
  · simp_all
  · split <;> simp_all

/-- A wrapped distance never exceeds half the range. -/
theorem wrapDist_le {w : Nat} (d : BitVec (w + 1)) : wrapDist d ≤ 2 ^ w := by
  have h := d.isLt
  have e : (2 : Nat) ^ (w + 1) = 2 * 2 ^ w := by ring
  unfold wrapDist
  rw [BitVec.msb_eq_decide]
  by_cases g : 2 ^ w ≤ d.toNat <;> simp [g] <;> omega

/-- The epsilon test holds of finite operands only, and never with a NaN epsilon. -/
theorem epsTest_finite {p : Config.EpsSub} {s r eps : Word} (h : epsTest p s r eps = true) :
    isNaN32 s = false ∧ isNaN32 r = false ∧ isNaN32 eps = false ∧ isInf32 s = false ∧ isInf32 r = false := by
  unfold epsTest at h
  split at h
  · simp at h
  · split at h
    · simp at h
    · simp_all

end Sys2Proof.Machine
end

