-- ==== Sys2Proof/Laws/PerInstr.lean ====
section
/-! SUPPORT. Statements about every instruction as syntax, one lemma per constructor. Family `EncodedControl`: the control
byte of an encoded instruction has its reserved bits clear, a defined operation and, where the operation reads the mode,
a defined mode (spec/30_encoding.md rule R69, negated), and its row of the opcode table matches it. -/

namespace Sys2Proof.Laws.EncodedControl

/-- The encoding of an instruction is a well-formed request, and the opcode table has a row of its mnemonic that its
control byte matches. -/
def Statement (i : Instr) : Prop :=
  (encode i).wellFormed = true ∧
    ∃ r ∈ opcodeTable, r.mnemonic = i.mnemonic ∧ (encode i).ctl &&& r.mask = r.pattern

/-- The two halves of the statement for one control byte and one mnemonic, as a check. -/
def controlOk (ctl : BitVec 8) (mnemonic : String) : Bool :=
  rsvClear ctl && opDefined ctl && modeDefined ctl &&
    opcodeTable.any fun r => r.mnemonic == mnemonic && ctl &&& r.mask == r.pattern

/-- The statement for an instruction whose control byte and mnemonic pass the check. -/
theorem of_controlOk {i : Instr} {ctl : BitVec 8} {mnemonic : String} (hc : (encode i).ctl = ctl)
    (hm : i.mnemonic = mnemonic) (h : controlOk ctl mnemonic = true) : Statement i := by
  subst hc hm
  simp only [controlOk, Bool.and_eq_true, List.any_eq_true, beq_iff_eq] at h
  obtain ⟨⟨⟨h1, h2⟩, h3⟩, r, hr, hn, hp⟩ := h
  exact ⟨by simp [Request.wellFormed, h1, h2, h3], r, hr, hn, hp⟩

theorem enc16 (f : Word) : Statement (.enc16 f) :=
  of_controlOk (ctl := ctlOf 0x0#4 0#2) (mnemonic := "ENC16") rfl rfl (by decide)

theorem dec32 (h : Half) : Statement (.dec32 h) :=
  of_controlOk (ctl := ctlOf 0x1#4 0#2) (mnemonic := "DEC32") rfl rfl (by decide)

theorem isnan16 (h : Half) : Statement (.isnan16 h) :=
  of_controlOk (ctl := ctlOf 0x2#4 0#2) (mnemonic := "ISNAN16") rfl rfl (by decide)

theorem cmpulp32 (mode : DenormMode) (src ref tol : Word) : Statement (.cmpulp32 mode src ref tol) :=
  of_controlOk (ctl := ctlOf 0x3#4 mode.code) (mnemonic := "CMPULP32") rfl rfl (by cases mode <;> decide)

theorem cmpulp16 (src ref : Half) (tol : Word) : Statement (.cmpulp16 src ref tol) :=
  of_controlOk (ctl := ctlOf 0x4#4 0#2) (mnemonic := "CMPULP16") rfl rfl (by decide)

theorem cmpeps32 (mode : DenormMode) (src ref eps : Word) : Statement (.cmpeps32 mode src ref eps) :=
  of_controlOk (ctl := ctlOf 0x5#4 mode.code) (mnemonic := "CMPEPS32") rfl rfl (by cases mode <;> decide)

theorem cmpeps16 (src ref : Half) (eps : Word) : Statement (.cmpeps16 src ref eps) :=
  of_controlOk (ctl := ctlOf 0x6#4 0#2) (mnemonic := "CMPEPS16") rfl rfl (by decide)

theorem cmprel32 (mode : DenormMode) (src ref relexp : Word) : Statement (.cmprel32 mode src ref relexp) :=
  of_controlOk (ctl := ctlOf 0x7#4 mode.code) (mnemonic := "CMPREL32") rfl rfl (by cases mode <;> decide)

theorem cmprel16 (src ref : Half) (relexp : Word) : Statement (.cmprel16 src ref relexp) :=
  of_controlOk (ctl := ctlOf 0x8#4 0#2) (mnemonic := "CMPREL16") rfl rfl (by decide)

theorem isden32 (f : Word) : Statement (.isden32 f) :=
  of_controlOk (ctl := ctlOf 0x9#4 0#2) (mnemonic := "ISDEN32") rfl rfl (by decide)

theorem ftz32 (f : Word) : Statement (.ftz32 f) :=
  of_controlOk (ctl := ctlOf 0xA#4 0#2) (mnemonic := "FTZ32") rfl rfl (by decide)

theorem feq32 (a b : Word) : Statement (.feq32 a b) :=
  of_controlOk (ctl := ctlOf 0xB#4 0#2) (mnemonic := "FEQ32") rfl rfl (by decide)

theorem feqn32 (a b : Word) : Statement (.feqn32 a b) :=
  of_controlOk (ctl := ctlOf 0xC#4 0#2) (mnemonic := "FEQN32") rfl rfl (by decide)

end Sys2Proof.Laws.EncodedControl
end

