-- ==== Sys2Proof/Laws/State.lean ====
section
/-! SUPPORT. One lemma per field of State per operation of Machine/Ops.lean, each true by rfl, so that no later proof
unfolds a record update; and what the shared operations can do. -/

namespace Sys2Proof.Machine

section Fields

variable (r : Response) (y : Word) (b : Bool) (h : Half) (c : IllegalCause) (q : Request) (s : State)

@[simp] theorem State.deliver_pending : (s.deliver r).pending = s.pending := rfl
@[simp] theorem State.deliver_responses : (s.deliver r).responses = s.responses ++ [r] := rfl
@[simp] theorem State.deliver_params : (s.deliver r).params = s.params := rfl
@[simp] theorem State.deliver_draws : (s.deliver r).draws = s.draws := rfl

@[simp] theorem State.answer_pending : (s.answer y).pending = s.pending := rfl
@[simp] theorem State.answer_responses : (s.answer y).responses = s.responses ++ [legalResponse y] := rfl
@[simp] theorem State.answer_params : (s.answer y).params = s.params := rfl
@[simp] theorem State.answer_draws : (s.answer y).draws = s.draws := rfl

@[simp] theorem State.answerBool_pending : (s.answerBool b).pending = s.pending := rfl
@[simp] theorem State.answerBool_responses :
    (s.answerBool b).responses = s.responses ++ [legalResponse (boolY b)] := rfl
@[simp] theorem State.answerBool_params : (s.answerBool b).params = s.params := rfl
@[simp] theorem State.answerBool_draws : (s.answerBool b).draws = s.draws := rfl

@[simp] theorem State.answerHalf_pending : (s.answerHalf h).pending = s.pending := rfl
@[simp] theorem State.answerHalf_responses :
    (s.answerHalf h).responses = s.responses ++ [legalResponse (halfY h)] := rfl
@[simp] theorem State.answerHalf_params : (s.answerHalf h).params = s.params := rfl
@[simp] theorem State.answerHalf_draws : (s.answerHalf h).draws = s.draws := rfl

@[simp] theorem State.nextDraw_pending : s.nextDraw.pending = s.pending := rfl
@[simp] theorem State.nextDraw_responses : s.nextDraw.responses = s.responses := rfl
@[simp] theorem State.nextDraw_params : s.nextDraw.params = s.params := rfl
@[simp] theorem State.nextDraw_draws : s.nextDraw.draws = s.draws + 1 := rfl

@[simp] theorem State.raiseIllegal_pending : (s.raiseIllegal c).pending = s.pending := rfl
@[simp] theorem State.raiseIllegal_responses :
    (s.raiseIllegal c).responses = s.responses ++ [illegalResponse c (Config.freeY s.draws)] := rfl
@[simp] theorem State.raiseIllegal_params : (s.raiseIllegal c).params = s.params := rfl
@[simp] theorem State.raiseIllegal_draws : (s.raiseIllegal c).draws = s.draws + 1 := rfl

@[simp] theorem State.placeRequest_pending : (s.placeRequest q).pending = q :: s.pending.tail := rfl
@[simp] theorem State.placeRequest_responses : (s.placeRequest q).responses = s.responses := rfl
@[simp] theorem State.placeRequest_params : (s.placeRequest q).params = s.params := rfl
@[simp] theorem State.placeRequest_draws : (s.placeRequest q).draws = s.draws := rfl

@[simp] theorem State.issue_pending : (s.issue q).pending = s.pending ++ [q] := rfl
@[simp] theorem State.issue_responses : (s.issue q).responses = s.responses := rfl
@[simp] theorem State.issue_params : (s.issue q).params = s.params := rfl
@[simp] theorem State.issue_draws : (s.issue q).draws = s.draws := rfl

@[simp] theorem State.resetEvent_params : s.resetEvent.params = s.params := rfl
@[simp] theorem State.resetEvent_draws : s.resetEvent.draws = s.draws := rfl

@[simp] theorem legalResponse_y : (legalResponse y).y = y := rfl
@[simp] theorem legalResponse_ill : (legalResponse y).ill = false := rfl
@[simp] theorem legalResponse_cause : (legalResponse y).cause = 0#2 := rfl
@[simp] theorem illegalResponse_y : (illegalResponse c y).y = y := rfl
@[simp] theorem illegalResponse_ill : (illegalResponse c y).ill = true := rfl
@[simp] theorem illegalResponse_cause : (illegalResponse c y).cause = causeCode c := rfl

end Fields

/-- Everything `fetch` can answer: nothing when no request waits, else the oldest request and the state without it. -/
theorem State.fetch_eq_some {s t : State} {q : Request} :
    s.fetch = some (q, t) ↔ ∃ qs, s.pending = q :: qs ∧ t = { s with pending := qs } := by
  unfold State.fetch
  split <;> simp_all [eq_comm]

@[simp] theorem State.fetch_eq_none {s : State} : s.fetch = none ↔ s.pending = [] := by
  unfold State.fetch
  split <;> simp_all

/-- What stands where `fetch` looks is fetched. -/
@[simp] theorem State.fetch_placeRequest (q : Request) (s : State) :
    (s.placeRequest q).fetch = some (q, { s with pending := s.pending.tail }) := rfl

/-- The code of an illegal cause is never the code of a legal response. -/
theorem causeCode_ne_zero (c : IllegalCause) : causeCode c ≠ 0#2 := by cases c <;> decide

/-- Different causes have different codes. -/
theorem causeCode_injective : Function.Injective causeCode := by
  intro c d; cases c <;> cases d <;> decide

end Sys2Proof.Machine
end

