-- ==== Sys2Proof/Laws/Step.lean ====
section
/-! SUPPORT. What one step can do, in one lemma, and the two equations of a run. -/

namespace Sys2Proof.Machine

/-- Everything a step can do: nothing when no request waits; else, on the state without the oldest request, that
request's instruction or the answer to an illegal request. -/
theorem step_cases (s : State) :
    (s.pending = [] ∧ step s = .next s) ∨
      ∃ q qs, s.pending = q :: qs ∧
        ((∃ i, decode q = .op i ∧ step s = exec i { s with pending := qs }) ∨
          ∃ c, decode q = .illegal c ∧ step s = .next (State.raiseIllegal c { s with pending := qs })) := by
  unfold step
  cases hf : s.fetch with
  | none => exact .inl ⟨State.fetch_eq_none.1 hf, rfl⟩
  | some p =>
    obtain ⟨q, t⟩ := p
    obtain ⟨qs, hp, rfl⟩ := State.fetch_eq_some.1 hf
    cases hd : decode q with
    | op i => exact .inr ⟨q, qs, hp, .inl ⟨i, hd, by simp only [hd]⟩⟩
    | illegal c => exact .inr ⟨q, qs, hp, .inr ⟨c, hd, by simp only [hd]⟩⟩

@[simp] theorem run_zero (s : State) : run 0 s = .next s := rfl

/-- A run whose first step answers a next state goes on from there. -/
theorem run_succ {s t : State} (n : Nat) (h : step s = .next t) : run (n + 1) s = run n t := by
  simp only [run, h]

/-- One more step of the host's run of any core, when that step answers a next state. -/
theorem coreRun_succ {M : Host.Core} {s t : M.State} (n : Nat) (h : M.step s = .next t) :
    M.run (n + 1) s = M.run n t := by
  simp only [Host.Core.run, h]

/-- The host's run of any core stops at a refusal. -/
theorem coreRun_refused {M : Host.Core} {s : M.State} {r : M.Refusal} (n : Nat) (h : M.step s = .refused r) :
    M.run (n + 1) s = .refused r := by
  simp only [Host.Core.run, h]

/-- A run of the model is the host's run of the core. -/
theorem run_eq_core (n : Nat) (s : State) : Host.Core.run Sys2Proof.core n s = run n s := by
  induction n generalizing s with
  | zero => rfl
  | succ n ih =>
    cases h : step s with
    | next t => exact (coreRun_succ (M := Sys2Proof.core) n h).trans ((ih t).trans (run_succ n h).symm)
    | fault r => exact r.rec
    | refused r =>
      have hr : run (n + 1) s = .refused r := by simp only [run, h]
      exact (coreRun_refused (M := Sys2Proof.core) n h).trans hr.symm

end Sys2Proof.Machine
end

