-- ==== Sys2Proof/Tests/Slice0.lean ====
section
/-! SUPPORT. Tests. Every expected result is one of spec/95_test_vectors.md (its section stands in the comment) or is
written out from the encoding tables of spec/30_encoding.md. The `witness_` theorems show that the hypotheses of each
statement can be met, at boundary values of each clause. -/

namespace Sys2Proof.Tests

open Sys2Proof.Machine

/-! ## Well-formedness: one ill-formed request for each check of R69 -/

theorem test_reserved_bits_refused : Request.wellFormed ⟨0x40#8, 0#32, 0#32, 0#32⟩ = false := by decide
theorem test_reserved_op_refused : Request.wellFormed ⟨0x0D#8, 0#32, 0#32, 0#32⟩ = false := by decide
theorem test_reserved_mode_refused : Request.wellFormed ⟨0x33#8, 0#32, 0#32, 0#32⟩ = false := by decide
theorem test_ignored_mode_accepted : Request.wellFormed ⟨0x34#8, 0#32, 0#32, 0#32⟩ = true := by decide

/-! ## Decoding: a control byte written out bit by bit (rsv, mode, op), for every constructor -/

theorem test_decode_enc16 : decode ⟨0b00110000#8, 5#32, 6#32, 7#32⟩ = .op (.enc16 5#32) := by decide
theorem test_decode_dec32 : decode ⟨0b00000001#8, 0xABCD3C00#32, 6#32, 7#32⟩ = .op (.dec32 0x3C00#16) := by decide
theorem test_decode_isnan16 : decode ⟨0b00000010#8, 0xFFFF0000#32, 6#32, 7#32⟩ = .op (.isnan16 0#16) := by decide
theorem test_decode_cmpulp32 : decode ⟨0b00000011#8, 5#32, 6#32, 7#32⟩ = .op (.cmpulp32 .any 5#32 6#32 7#32) := by
  decide
theorem test_decode_cmpulp16 :
    decode ⟨0b00110100#8, 0xFFFF3C00#32, 0x12343C01#32, 1#32⟩ = .op (.cmpulp16 0x3C00#16 0x3C01#16 1#32) := by decide
theorem test_decode_cmpeps32 :
    decode ⟨0b00010101#8, 5#32, 6#32, 7#32⟩ = .op (.cmpeps32 .preserve 5#32 6#32 7#32) := by decide
theorem test_decode_cmpeps16 : decode ⟨0b00000110#8, 5#32, 6#32, 7#32⟩ = .op (.cmpeps16 5#16 6#16 7#32) := by decide
theorem test_decode_cmprel32 :
    decode ⟨0b00100111#8, 5#32, 6#32, 7#32⟩ = .op (.cmprel32 .flushToZero 5#32 6#32 7#32) := by decide
theorem test_decode_cmprel16 : decode ⟨0b00001000#8, 5#32, 6#32, 7#32⟩ = .op (.cmprel16 5#16 6#16 7#32) := by decide
theorem test_decode_isden32 : decode ⟨0b00001001#8, 5#32, 6#32, 7#32⟩ = .op (.isden32 5#32) := by decide
theorem test_decode_ftz32 : decode ⟨0b00001010#8, 5#32, 6#32, 7#32⟩ = .op (.ftz32 5#32) := by decide
theorem test_decode_feq32 : decode ⟨0b00001011#8, 5#32, 6#32, 7#32⟩ = .op (.feq32 5#32 6#32) := by decide
theorem test_decode_feqn32 : decode ⟨0b00001100#8, 5#32, 6#32, 7#32⟩ = .op (.feqn32 5#32 6#32) := by decide

/-- Section 2.14: every cause, and R143's priority on `0xCD`, `0xF3` and `0x3D`. -/
theorem test_decode_causes :
    decode ⟨0x37#8, 0#32, 0#32, 0#32⟩ = .illegal .reservedMode ∧
    decode ⟨0x3D#8, 0#32, 0#32, 0#32⟩ = .illegal .reservedOp ∧
    decode ⟨0xCD#8, 0#32, 0#32, 0#32⟩ = .illegal .reservedBits ∧
    decode ⟨0xF3#8, 0#32, 0#32, 0#32⟩ = .illegal .reservedBits := by decide

/-- Section 3, P1 row 3: the image of `CTL=0x15 A=0x40490FDB B=0x40490000 C=0x3A800000` (R68). -/
theorem test_image : encodeImage (.cmpeps32 .preserve 0x40490FDB#32 0x40490000#32 0x3A800000#32) =
    0x3A8000004049000040490FDB15#104 := by decide

/-- Section 3: for a legal request the response image is its `Y`; `ILL` and `CAUSE` stand above it (R68). -/
theorem test_response_image :
    (legalResponse 0x4248#32).toImage = 0x4248#35 ∧ (illegalResponse .reservedBits 0#32).toImage = 0x700000000#35 := by
  decide

/-- The first instruction after reset is the one placed for it. -/
theorem test_withFetchWord : step (State.reset.withFetchWord 8 0x0C) = exec (.feqn32 0#32 0#32) State.reset := by rfl

/-- R57: the two infinities, a NaN, and the smallest denormal, 2^-24 = 2^125 * 2^-149. -/
theorem test_extVal16 :
    extVal16 0x7C00#16 = some .posInf ∧ extVal16 0xFC00#16 = some .negInf ∧ extVal16 0x7C01#16 = none ∧
    extVal16 0x8001#16 = some (.fin (-(2 ^ 125))) := by decide

/-! ## Meanings, by the vectors of section 2 -/

/-- The result of the last response, where a meaning answers a next state. -/
def resultOf (o : Host.Outcome State Fault Refusal) : Option Word :=
  match o with
  | .next t => t.responses.getLast?.map Response.y
  | .fault _ => none
  | .refused _ => none

/-- Reset with another parameter setting. -/
def withParams (p : Config.Params) : State := { State.reset with params := p }

/-- Section 2.1: pi is truncated. -/
theorem test_enc16_truncates : resultOf (exec (.enc16 0x40490FDB#32) State.reset) = some 0x4248#32 := by decide
/-- Section 2.1, RAW: 131072 becomes a negative zero. -/
theorem test_enc16_raw_band : resultOf (exec (.enc16 0x48000000#32)
    (withParams { Config.Params.default with encOvf := .raw })) = some 0x8000#32 := by decide
/-- Section 2.2: a denormal with k = 8. -/
theorem test_dec32_denormal : resultOf (exec (.dec32 0x0155#16) State.reset) = some 0x37AA8000#32 := by decide
/-- Section 2.2: a signalling NaN stays signalling. -/
theorem test_dec32_nan : resultOf (exec (.dec32 0x7C01#16) State.reset) = some 0x7F802000#32 := by decide
/-- Section 2.3. -/
theorem test_isnan16_infinity : resultOf (exec (.isnan16 0xFC00#16) State.reset) = some 0#32 := by decide
theorem test_isnan16_nan : resultOf (exec (.isnan16 0xFC01#16) State.reset) = some 1#32 := by decide
/-- Section 2.4: cross-sign, default WRAP32, and EXACT. -/
theorem test_cmpulp32_wrap :
    resultOf (exec (.cmpulp32 .preserve 1#32 0x80000000#32 0x7FFFFFFF#32) State.reset) = some 1#32 := by decide
theorem test_cmpulp32_exact : resultOf (exec (.cmpulp32 .preserve 1#32 0x80000000#32 0x7FFFFFFF#32)
    (withParams { Config.Params.default with ulp32 := .exact })) = some 0#32 := by decide
/-- Section 2.5: 1 - 2^-30 rounds to 1 under RNE32, and is below 1 under EXACT. -/
theorem test_cmpeps32_rounds :
    resultOf (exec (.cmpeps32 .preserve 0x3F800000#32 0x30800000#32 0x3F800000#32) State.reset) = some 0#32 := by decide
theorem test_cmpeps32_exact : resultOf (exec (.cmpeps32 .preserve 0x3F800000#32 0x30800000#32 0x3F800000#32)
    (withParams { Config.Params.default with epsSub := .exact })) = some 1#32 := by decide
/-- Section 2.6: the tolerance 2^31 + 23 is exact. -/
theorem test_cmprel32_exact_tolerance :
    resultOf (exec (.cmprel32 .preserve 1#32 0x80000000#32 0x80000000#32) State.reset) = some 1#32 := by decide
theorem test_cmprel32_negative :
    resultOf (exec (.cmprel32 .preserve 0x3F800000#32 0x3F800001#32 24#32) State.reset) = some 0#32 := by decide
/-- Section 2.7: the two zeros differ, at distance 2^15. -/
theorem test_cmpulp16_zeros : resultOf (exec (.cmpulp16 0#16 0x8000#16 0#32) State.reset) = some 0#32 := by decide
theorem test_cmpulp16_unsigned : resultOf (exec (.cmpulp16 0#16 0xFFFF#16 1#32)
    (withParams { Config.Params.default with ulp16 := .unsigned })) = some 0#32 := by decide
/-- Section 2.8: the two zeros decode equal; 65504 - 2^-24 rounds to 65504. -/
theorem test_cmpeps16_zeros :
    resultOf (exec (.cmpeps16 0#16 0x8000#16 0x33800000#32) State.reset) = some 1#32 := by decide
theorem test_cmpeps16_rounds :
    resultOf (exec (.cmpeps16 0x7BFF#16 1#16 0x477FE000#32) State.reset) = some 0#32 := by decide
/-- Section 2.9. -/
theorem test_cmprel16_distance_ten :
    resultOf (exec (.cmprel16 0x3C00#16 0x3C0A#16 0#32) State.reset) = some 1#32 := by decide
theorem test_cmprel16_ucast : resultOf (exec (.cmprel16 0x3C00#16 0x3C01#16 11#32)
    (withParams { Config.Params.default with tolCmp := .ucast })) = some 1#32 := by decide
/-- Section 2.10. -/
theorem test_isden32_largest : resultOf (exec (.isden32 0x807FFFFF#32) State.reset) = some 1#32 := by decide
theorem test_isden32_smallest_normal : resultOf (exec (.isden32 0x00800000#32) State.reset) = some 0#32 := by decide
/-- Section 2.11. -/
theorem test_ftz32_keeps_sign : resultOf (exec (.ftz32 0x80000001#32) State.reset) = some 0x80000000#32 := by decide
theorem test_ftz32_nan_unchanged : resultOf (exec (.ftz32 0xFFC00001#32) State.reset) = some 0xFFC00001#32 := by decide
/-- Section 2.12. -/
theorem test_feq32_flushes : resultOf (exec (.feq32 0x80000001#32 0#32) State.reset) = some 1#32 := by decide
theorem test_feq32_nan : resultOf (exec (.feq32 0x7FC00000#32 0x7FC00000#32) State.reset) = some 0#32 := by decide
theorem test_feqn32_nans : resultOf (exec (.feqn32 0x7FC00000#32 0xFF800001#32) State.reset) = some 1#32 := by decide
theorem test_feqn32_one_nan : resultOf (exec (.feqn32 0x7FC00000#32 0x3F800000#32) State.reset) = some 0#32 := by decide

/-- Section 2.14: `0xCD` is answered with `ILL = 1` and cause 3, and its `Y` is the next draw. -/
theorem test_illegal_response : step { State.reset with pending := [⟨0xCD#8, 0#32, 0#32, 0#32⟩] } =
    .next { State.reset with responses := [⟨Config.freeY 0, true, 3#2⟩], draws := 1 } := by rfl

/-! ## The assembler (R72, R73) -/

/-- The result patterns of a listing. -/
def listing (text : String) : Option (List Word) :=
  (runText State.reset text).map fun s => s.responses.map Response.y

/-- Section 3, the first rows of P1. -/
theorem test_listing_p1 :
    listing "ENC16 0x40490FDB ; pi\nDEC32 @1\nCMPEPS32.preserve 0x40490FDB, @2, 0x3A800000" =
      some [0x4248#32, 0x40490000#32, 1#32] := by decide
/-- Section 3, P4 row 8, as a raw image. -/
theorem test_listing_raw :
    listing "CTL=0x34 A=0x00003C00 B=0x00003C00 C=0x00000000" = some [1#32] := by decide
/-- Log 15: from a state with a response and a waiting request, `@1` is the listing's own first response (R72). -/
theorem test_listing_counts_its_own_responses :
    (runText ⟨[⟨0x02#8, 0x7C01#32, 0#32, 0#32⟩], [⟨7#32, false, 0#2⟩], Config.Params.default, 0⟩
      "ENC16 0x3F800000\nDEC32 @1").map (fun s => s.responses.map Response.y) =
      some [7#32, 1#32, 0x3C00#32, 0x3F800000#32] := by decide
/-- R72: a decimal number holds no letter, and a hexadecimal one no letter after F. -/
theorem test_readNumber :
    readNumber 16 "7fFA0".toList = some 0x7FFA0 ∧ readNumber 10 "1023".toList = some 1023 ∧
    readNumber 10 "1A".toList = none ∧ readNumber 16 "1G".toList = none ∧ readNumber 10 [] = none := by decide

/-- R72: a literal that does not fit, a suffix on an operation without one, and a missing operand are rejected. -/
theorem test_assembler_rejects :
    (parseListing "ENC16 0x3C00").bind (runListing State.reset) = none ∧
    (parseListing "CMPULP16.any 0x3C00, 0x3C01, 1").bind (runListing State.reset) = none ∧
    (parseListing "FEQ32 0x3F800000").bind (runListing State.reset) = none ∧
    (parseListing "CMPULP32 0x3F800000, 0x3F800001, 2147483648").bind (runListing State.reset) = none := by decide

/-! ## Witnesses -/

/-- A state with these requests waiting. -/
def waiting (qs : List Request) : State := { State.reset with pending := qs }

/-- A request without operands. -/
def bare (ctl : BitVec 8) : Request := ⟨ctl, 0#32, 0#32, 0#32⟩

theorem witness_StepRunsDecodedRequest :
    (waiting [bare 0x03#8]).pending = [bare 0x03#8] ∧ decode (bare 0x03#8) = .op (.cmpulp32 .any 0#32 0#32 0#32) := by
  decide

/-- Each clause at the ends of its range: reserved bits 1 and 3, operation 13 and 15, each operation that reads the mode. -/
theorem witness_ReservedControlIsAnsweredWithFirstCause :
    (waiting [bare 0x40#8]).pending = [bare 0x40#8] ∧
    Spec.rsvBits (bare 0x40#8) = 1 ∧ Spec.rsvBits (bare 0xFF#8) = 3 ∧
    (Spec.rsvBits (bare 0x0D#8) = 0 ∧ Spec.opBits (bare 0x0D#8) = 13) ∧
    (Spec.rsvBits (bare 0x3F#8) = 0 ∧ Spec.opBits (bare 0x3F#8) = 15) ∧
    (Spec.rsvBits (bare 0x33#8) = 0 ∧ Spec.opBits (bare 0x33#8) = 3 ∧ Spec.modeBits (bare 0x33#8) = 3) ∧
    (Spec.rsvBits (bare 0x35#8) = 0 ∧ Spec.opBits (bare 0x35#8) = 5 ∧ Spec.modeBits (bare 0x35#8) = 3) ∧
    (Spec.rsvBits (bare 0x37#8) = 0 ∧ Spec.opBits (bare 0x37#8) = 7 ∧ Spec.modeBits (bare 0x37#8) = 3) := by decide

theorem witness_NoOperandMakesARequestIllegal :
    (waiting [bare 0x3C#8]).pending = [bare 0x3C#8] ∧ Spec.legal (bare 0x3C#8) ∧ Spec.legal (bare 0x23#8) := by decide

theorem witness_IllegalResultIsAFreshDraw :
    (waiting [bare 0x0D#8]).pending = [bare 0x0D#8] ∧ ¬ Spec.legal (bare 0x0D#8) := by decide

theorem witness_EncodeOfDecodeKeepsEveryReadBit :
    decode ⟨0x34#8, 0xFFFF3C00#32, 0x12343C01#32, 1#32⟩ = .op (.cmpulp16 0x3C00#16 0x3C01#16 1#32) := by decide

theorem witness_IgnoredFieldsHaveNoEffect :
    Spec.readPart ⟨0x31#8, 0xABCD3C00#32, 5#32, 6#32⟩ = Spec.readPart ⟨0x01#8, 0x00003C00#32, 7#32, 8#32⟩ := by decide

/-- Both clauses; in the second, a byte that decodes and one of the reserved mode. -/
theorem witness_DecodeFollowsOpcodeTable :
    decode (bare 0x2C#8) = .op (.feqn32 0#32 0#32) ∧
    (⟨"CMPEPS32", 0xCF#8, 0x05#8⟩ : OpcodeRow) ∈ opcodeTable ∧ (bare 0x35#8).ctl &&& 0xCF#8 = 0x05#8 ∧
    (bare 0x25#8).ctl &&& 0xCF#8 = 0x05#8 := by decide

theorem witness_EveryRequestGetsExactlyOneResponse : (waiting [bare 0xC3#8]).pending = [bare 0xC3#8] := by decide

theorem witness_IdleStepAndFixedParameters :
    State.reset.pending = [] ∧ step (waiting [bare 0x02#8]) = .next (State.reset.answer 0#32) := ⟨by decide, rfl⟩

/-- Both ways to meet the last hypothesis: a request that draws nothing, and two equal draw counts. -/
theorem witness_ResponseDependsOnTheRequestAlone :
    (waiting [bare 0x09#8]).params = (waiting [bare 0x09#8, bare 0x01#8]).params ∧
    Request.draws (waiting [bare 0x09#8]).params (bare 0x09#8) = false ∧
    Request.draws (waiting [bare 0x0D#8]).params (bare 0x0D#8) = true ∧
    (waiting [bare 0x0D#8]).draws = (waiting [bare 0x0D#8, bare 0x01#8]).draws := by decide

theorem witness_IllegalRequestLeavesNoTrace :
    (waiting [bare 0x34#8]).pending = [bare 0x34#8] ∧ ¬ Spec.legal (bare 0x33#8) ∧
    Request.draws (waiting [bare 0x34#8]).params (bare 0x34#8) = false := by decide

theorem witness_StepKeepsResponsesCoherent :
    (waiting [bare 0x02#8]).coherent = true ∧
    step (waiting [bare 0x02#8]) = .next (State.reset.answer 0#32) := ⟨by decide, rfl⟩

theorem witness_EncodeNormalRange :
    (0x38800000 ≤ Spec.abs32 0xB8800000#32 ∧ Spec.abs32 0xB8800000#32 ≤ 0x477FE000) ∧
    (0x38800000 ≤ Spec.abs32 0x477FE000#32 ∧ Spec.abs32 0x477FE000#32 ≤ 0x477FE000) := by decide

theorem witness_EncodeDenormalRange :
    Spec.abs32 0x80000000#32 < 0x38800000 ∧ Spec.abs32 0x387FFFFF#32 < 0x38800000 := by decide

theorem witness_EncodeInfinitiesAndNaNs :
    Spec.inf32 0xFF800000#32 ∧ Spec.nan32 0x7F800001#32 ∧ Spec.nan32 0xFFFFFFFF#32 := by decide

/-- Both ends of the band, and a state for each parameter setting. -/
theorem witness_EncodeOverflowBand :
    Spec.band 0x477FE001#32 ∧ Spec.band 0xFF7FFFFF#32 ∧ State.reset.params.encOvf = .inf ∧
    (withParams { Config.Params.default with encOvf := .raw }).params.encOvf = .raw ∧
    (withParams { Config.Params.default with encOvf := .any }).params.encOvf = .any := by decide

/-- Both clauses, the second by each of its alternatives (default `INF` inside the band; `RAW` outside it). -/
theorem witness_EncodeSignIsOredInLast :
    ¬ (State.reset.params.encOvf = .any ∧ Spec.band 0xC7800000#32) ∧ State.reset.params.encOvf = .inf ∧
    ((withParams { Config.Params.default with encOvf := .raw }).params.encOvf = .raw ∧ ¬ Spec.band 0x477FE000#32) := by
  decide

theorem witness_EncodeAlwaysAnswersAHalf :
    ¬ (State.reset.params.encOvf = .any ∧ Spec.band 0x477FE001#32) := by decide

theorem witness_EncodeRoundsTowardZero :
    Spec.abs32 0xC77FE000#32 ≤ 0x477FE000 ∧ Spec.abs32 0x387FFFFF#32 ≤ 0x477FE000 := by decide

/-- Each clause; the denormal one at k = 0 and at k = 9 with the largest denormal. -/
theorem witness_DecodeIsExact :
    ¬ Spec.nan16 0xFC00#16 ∧ Spec.abs16 0xFC00#16 = 0x7C00 ∧ Spec.nan16 0x7C01#16 ∧ Spec.abs16 0x8000#16 = 0 ∧
    (0 ≤ 9 ∧ 2 ^ 0 ≤ Spec.abs16 0x8001#16 ∧ Spec.abs16 0x8001#16 < 2 ^ (0 + 1)) ∧
    (9 ≤ 9 ∧ 2 ^ 9 ≤ Spec.abs16 0x03FF#16 ∧ Spec.abs16 0x03FF#16 < 2 ^ (9 + 1)) := by decide

theorem witness_EncodeOfDecodeIsTheIdentity : ¬ Spec.nan16 0x7C00#16 ∧ Spec.nan16 0xFC01#16 := by decide

/-- At an ordinary exponent, and at the smallest one whose tolerance is a 32-bit number. -/
theorem witness_CompareRelative32Result :
    Spec.signed 1#32 = 23 - Spec.signed 22#32 ∧ Spec.signed 0x7FFFFFFF#32 = 23 - Spec.signed 0x80000018#32 := by decide

theorem witness_CompareRelative16Result :
    Spec.signed 0xFFFFFFFF#32 = 10 - Spec.signed 11#32 ∧ Spec.signed 0x7FFFFFFF#32 = 10 - Spec.signed 0x8000000B#32 := by
  decide

/-- For the encoding clause of each of the 13 result statements: a request with the operation code, and nonzero bits in
the mode field where it is ignored. -/
theorem witness_encodedBy :
    ∀ op ∈ [0, 1, 2, 4, 6, 8, 9, 10, 11, 12],
      Spec.rsvBits (bare (0x30#8 + BitVec.ofNat 8 op)) = 0 ∧ Spec.opBits (bare (0x30#8 + BitVec.ofNat 8 op)) = op := by
  decide

/-- The same for the three operations that read the mode, at each of the four values of the field. -/
theorem witness_encodedWithMode :
    ∀ op ∈ [3, 5, 7], ∀ m ∈ [0, 1, 2, 3],
      Spec.rsvBits (bare (BitVec.ofNat 8 (16 * m + op))) = 0 ∧ Spec.opBits (bare (BitVec.ofNat 8 (16 * m + op))) = op ∧
      Spec.modeBits (bare (BitVec.ofNat 8 (16 * m + op))) = m := by decide

/-- The first and the last comparator: both mode codes are legal there. -/
theorem witness_FlushToZeroActsAsPreserve :
    (3 ≤ 3 ∧ 3 ≤ 8 ∧ Spec.legal (bare 0x13#8) ∧ Spec.legal (bare 0x23#8)) ∧
    (3 ≤ 8 ∧ 8 ≤ 8 ∧ Spec.legal (bare 0x18#8) ∧ Spec.legal (bare 0x28#8)) := by decide

/-- The last pair that is not a NaN: the largest finite value and the infinity. -/
theorem witness_ComparatorPropertiesHoldForEveryParameter :
    ¬ Spec.nan16 0x7BFF#16 ∧ ¬ Spec.nan16 (0x7BFF#16 + 1#16) ∧ (Spec.neg16 0x7BFF#16 ↔ Spec.neg16 (0x7BFF#16 + 1#16)) := by
  decide

theorem witness_NaNsAreOneClass : Spec.nan32 0x7F800001#32 ∧ Spec.nan16 0xFC01#16 := by decide

theorem witness_NonPositiveEpsilonPassesNoPair :
    Spec.abs32 0x00000000#32 = 0 ∧ Spec.neg32 0x80000001#32 := by decide

theorem witness_DenormClassifierProperties :
    ¬ (Spec.nan32 0x7F800001#32 ∧ Spec.nan32 0x7F800000#32) := by decide

theorem witness_AssemblerEmitsOnlyLegalRequests :
    assemble [] (.instr "FTZ32" none [.hex 8 0x807FFFFF]) = some ⟨0x0A#8, 0x807FFFFF#32, 0#32, 0#32⟩ := by decide

/-- Each of the three suffixes that are not left out, and none. -/
theorem witness_OmittedModeIsAny :
    "CMPULP32" ∈ ["CMPULP32", "CMPEPS32", "CMPREL32"] ∧
    assemble [] (.instr "CMPULP32" none [.hex 8 0, .hex 8 1, .dec 0]) = some ⟨0x03#8, 0#32, 1#32, 0#32⟩ ∧
    assemble [] (.instr "CMPULP32" (some "preserve") [.hex 8 0, .hex 8 1, .dec 0]) = some ⟨0x13#8, 0#32, 1#32, 0#32⟩ ∧
    assemble [] (.instr "CMPULP32" (some "ftz") [.hex 8 0, .hex 8 1, .dec 0]) = some ⟨0x23#8, 0#32, 1#32, 0#32⟩ := by
  decide

end Sys2Proof.Tests
end

section
/-! PROOFS. The answer to one request as a function of the parameters, the draw count and the request (R29), the step and
the run in terms of it, and the statements about the interface that follow (spec/10_state.md). -/

namespace Sys2Proof.Machine

/-! ## The answer to one request, as a function -/

/-- `Y` of a legal request (R67): a function of the parameter setting, the draw count and the instruction. -/
def resultOf (p : Config.Params) (n : Nat) : Instr → Word
  | .enc16 f => halfY (enc16 p.encOvf (Config.freeHalf n) f)
  | .dec32 h => dec32 h
  | .isnan16 h => boolY (isNaN16 h)
  | .cmpulp32 m s r tol => boolY (cmpUlp32 p m s r (s32 tol))
  | .cmpulp16 s r tol => boolY (cmpUlp16 p s r (s32 tol))
  | .cmpeps32 m s r eps => boolY (cmpEps32 p m s r eps)
  | .cmpeps16 s r eps => boolY (cmpEps16 p s r eps)
  | .cmprel32 m s r x => boolY (cmpUlp32 p m s r ((mant32Bits : Int) - s32 x))
  | .cmprel16 s r x => boolY (cmpUlp16 p s r ((mant16Bits : Int) - s32 x))
  | .isden32 f => boolY (isDenormal32 f)
  | .ftz32 f => ftz32 f
  | .feq32 a b => boolY (flushedEq32 a b)
  | .feqn32 a b => boolY ((isNaN32 a && isNaN32 b) || flushedEq32 a b)

/-- Whether an instruction draws a free value: ENC16 on the overflow band under `ANY` alone (R85). -/
def instrDraws (p : Config.Params) : Instr → Bool
  | .enc16 f => encDraws p.encOvf f
  | _ => false

/-- The response to one request, legal or not (R141). -/
def responseOf (p : Config.Params) (n : Nat) (q : Request) : Response :=
  match decode q with
  | .op i => legalResponse (resultOf p n i)
  | .illegal c => illegalResponse c (Config.freeY n)

section Answer

variable {p : Config.Params} {q : Request}

theorem responseOf_op {i : Instr} (n : Nat) (h : decode q = .op i) :
    responseOf p n q = legalResponse (resultOf p n i) := by
  simp only [responseOf, h]

theorem responseOf_illegal {c : IllegalCause} (n : Nat) (h : decode q = .illegal c) :
    responseOf p n q = illegalResponse c (Config.freeY n) := by
  simp only [responseOf, h]

theorem draws_op {i : Instr} (h : decode q = .op i) : Request.draws p q = instrDraws p i := by
  cases i <;> simp only [Request.draws, h, instrDraws]

theorem draws_illegal {c : IllegalCause} (h : decode q = .illegal c) : Request.draws p q = true := by
  simp only [Request.draws, h]

/-! ## The step in terms of it -/

/-- Every instruction gives one response, moves the draw count if it draws, and leaves the rest as it was. -/
theorem exec_eq (i : Instr) (s : State) :
    exec i s = .next { s with
      responses := s.responses ++ [legalResponse (resultOf s.params s.draws i)]
      draws := if instrDraws s.params i then s.draws + 1 else s.draws } := by
  cases i with
  | enc16 f =>
    cases hd : encDraws s.params.encOvf f
    all_goals
      simp only [exec, execEnc16, instrDraws, hd]
      rfl
  | _ => rfl

/-- A step that finds a request answers it by `responseOf`, with no regard to anything else the state holds. -/
theorem step_of_pending {s : State} {qs : List Request} (hp : s.pending = q :: qs) :
    step s = .next { s with
      pending := qs
      responses := s.responses ++ [responseOf s.params s.draws q]
      draws := drawsAfter s.params s.draws q } := by
  obtain ⟨hnil, -⟩ | ⟨q', qs', hp', h⟩ := step_cases s
  · simp [hp] at hnil
  · obtain ⟨rfl, rfl⟩ : q = q' ∧ qs = qs' := by simpa [hp] using hp'
    obtain ⟨i, hd, hstep⟩ | ⟨c, hd, hstep⟩ := h
    · rw [hstep, exec_eq, responseOf_op _ hd, drawsAfter, draws_op hd]
    · rw [hstep, responseOf_illegal _ hd, drawsAfter, draws_illegal hd]
      rfl

/-- A step with no request waiting changes nothing (log 4). -/
theorem step_of_idle {s : State} (hp : s.pending = []) : step s = .next s := by
  obtain ⟨-, h⟩ | ⟨q, qs, hq, -⟩ := step_cases s
  · exact h
  · simp [hp] at hq

/-- What the state holds after a step: it is as before, or the oldest request has been answered. -/
theorem step_next_cases {s t : State} (h : step s = .next t) :
    (s.pending = [] ∧ t = s) ∨ ∃ q qs, s.pending = q :: qs ∧ t = { s with
      pending := qs
      responses := s.responses ++ [responseOf s.params s.draws q]
      draws := drawsAfter s.params s.draws q } := by
  cases hp : s.pending with
  | nil =>
    rw [step_of_idle hp] at h
    exact .inl ⟨rfl, (Host.Outcome.next.inj h).symm⟩
  | cons q qs =>
    rw [step_of_pending hp] at h
    exact .inr ⟨q, qs, rfl, (Host.Outcome.next.inj h).symm⟩

/-- The response of the step is what the block gives to the request alone, from reset (R29). -/
theorem respond_eq (p : Config.Params) (n : Nat) (q : Request) : respond p n q = some (responseOf p n q) := by
  rw [respond, step_of_pending rfl]
  rfl

/-! ## A response does not depend on the draw count unless it is a draw -/

/-- ENC16 does not read the drawn value unless it draws: outside the band, or under another setting than `ANY`. -/
theorem enc16_eq_of_not_draws {ovf : Config.EncOvf} {f : Word} (h : encDraws ovf f = false) (d d' : Half) :
    enc16 ovf d f = enc16 ovf d' f := by
  cases ovf with
  | inf => rfl
  | raw => rfl
  | any =>
    have hband : encInBand f = false := by simpa [encDraws] using h
    simp only [enc16]
    split_ifs with hmin hmax hover
    · rfl
    · rfl
    · simp [encInBand, hmin, hmax, hover] at hband
    · rfl

theorem resultOf_eq_of_not_draws {i : Instr} (h : instrDraws p i = false) (n m : Nat) :
    resultOf p n i = resultOf p m i := by
  cases i with
  | enc16 f => exact congrArg halfY (enc16_eq_of_not_draws h _ _)
  | _ => rfl

theorem responseOf_eq_of_not_draws (h : Request.draws p q = false) (n m : Nat) :
    responseOf p n q = responseOf p m q := by
  cases hd : decode q with
  | op i =>
    rw [draws_op hd] at h
    rw [responseOf_op n hd, responseOf_op m hd, resultOf_eq_of_not_draws h n m]
  | illegal c => simp [draws_illegal hd] at h

end Answer

/-! ## Responses are coherent -/

@[simp] theorem legalResponse_coherent (y : Word) : (legalResponse y).coherent = true := rfl

@[simp] theorem illegalResponse_coherent (c : IllegalCause) (y : Word) : (illegalResponse c y).coherent = true := by
  simp [Response.coherent, causeCode_ne_zero]

/-- Whatever the request, its response is one that R28 and R142 allow. -/
theorem responseOf_coherent (p : Config.Params) (n : Nat) (q : Request) : (responseOf p n q).coherent = true := by
  cases hd : decode q with
  | op i => rw [responseOf_op n hd, legalResponse_coherent]
  | illegal c => rw [responseOf_illegal n hd, illegalResponse_coherent]

/-! ## Runs -/

theorem respondAll_cons (p : Config.Params) (n : Nat) (q : Request) (qs : List Request) :
    respondAll p n (q :: qs) = responseOf p n q :: respondAll p (drawsAfter p n q) qs := by
  simp [respondAll, respond_eq]

theorem drawsAfterAll_cons (p : Config.Params) (n : Nat) (q : Request) (qs : List Request) :
    drawsAfterAll p n (q :: qs) = drawsAfterAll p (drawsAfter p n q) qs := rfl

/-- Each request has exactly one response (R30). -/
theorem respondAll_length (p : Config.Params) (n : Nat) (qs : List Request) :
    (respondAll p n qs).length = qs.length := by
  induction qs generalizing n with
  | nil => rfl
  | cons q qs ih => rw [respondAll_cons, List.length_cons, ih, List.length_cons]

/-- As many steps as requests wait answer them all, in order (R167). -/
theorem run_pending {s : State} {qs : List Request} (hp : s.pending = qs) :
    run qs.length s = .next { s with
      pending := []
      responses := s.responses ++ respondAll s.params s.draws qs
      draws := drawsAfterAll s.params s.draws qs } := by
  induction qs generalizing s with
  | nil =>
    obtain ⟨pending, responses, params, draws⟩ := s
    subst hp
    simp [respondAll, drawsAfterAll]
  | cons q qs ih =>
    rw [List.length_cons, run_succ _ (step_of_pending hp), ih rfl, respondAll_cons, drawsAfterAll_cons]
    simp

/-! ## The statements -/

/-- Settles O21: a step adds at most one response, and every response is coherent. -/
theorem stepKeepsResponsesCoherent : Obligations.StepKeepsResponsesCoherent := by
  intro s t hs hstep
  obtain ⟨-, rfl⟩ | ⟨q, qs, -, rfl⟩ := step_next_cases hstep
  · exact hs
  · have hall : s.responses.all Response.coherent = true := hs
    simp [State.coherent, hall, responseOf_coherent]

/-- Settles O15: the answer is `responseOf`. -/
theorem everyRequestGetsExactlyOneResponse : Obligations.EveryRequestGetsExactlyOneResponse :=
  fun _ _ _ hp => ⟨_, _, step_of_pending hp, rfl, rfl⟩

/-- Settles O17: `responseOf` takes the parameters, the draw count and the request, and reads the draw count only for a
draw. -/
theorem responseDependsOnTheRequestAlone : Obligations.ResponseDependsOnTheRequestAlone := by
  intro s s' q qs qs' hp hp' hparams hdraws
  have hsame : responseOf s'.params s'.draws q = responseOf s.params s.draws q := by
    rw [← hparams]
    obtain hno | heq := hdraws
    · exact responseOf_eq_of_not_draws hno _ _
    · rw [heq]
  refine ⟨responseOf s.params s.draws q, _, _, step_of_pending hp, step_of_pending hp', rfl, ?_⟩
  rw [hsame]

/-- Settles O19, by induction on the waiting requests. -/
theorem runAnswersEveryRequestInOrder : Obligations.RunAnswersEveryRequestInOrder :=
  fun s => ⟨run_pending rfl, respondAll_length s.params s.draws s.pending⟩

/-- Settles O16. -/
theorem idleStepAndFixedParameters : Obligations.IdleStepAndFixedParameters := by
  refine fun s => ⟨step_of_idle, fun t hstep => ?_⟩
  obtain ⟨-, rfl⟩ | ⟨q, qs, -, rfl⟩ := step_next_cases hstep <;> rfl

/-- Settles O20: no response has been given. -/
theorem coherentAtReset : Obligations.CoherentAtReset := rfl

end Sys2Proof.Machine
end

section
/-! PROOFS. What decoding answers, in one lemma over R69's conditions (`decode_cases`), and what follows from it: the
opcode table, the assembler's lines, and the statements about the encoding (spec/30_encoding.md). -/

namespace Sys2Proof

open Machine Spec

/-! ## Packed images (R68) -/

theorem Request.toImage_toNat (q : Request) : q.toImage.toNat =
    q.ctl.toNat + q.a.toNat * 2 ^ 8 + q.b.toNat * 2 ^ 40 + q.c.toNat * 2 ^ 72 := by
  have := q.ctl.isLt
  have := q.a.isLt
  have := q.b.isLt
  simp only [Request.toImage, BitVec.toNat_append]
  rw [← Nat.shiftLeft_add_eq_or_of_lt, ← Nat.shiftLeft_add_eq_or_of_lt, ← Nat.shiftLeft_add_eq_or_of_lt]
  · simp only [Nat.shiftLeft_eq]
    omega
  all_goals omega

@[simp] theorem Request.ofImage_toImage (q : Request) : Request.ofImage q.toImage = q := by
  obtain ⟨ctl, a, b, c⟩ := q
  have := ctl.isLt
  have := a.isLt
  have := b.isLt
  have := c.isLt
  simp only [Request.ofImage, Request.mk.injEq, ← BitVec.toNat_inj, BitVec.extractLsb'_toNat,
    Nat.shiftRight_eq_div_pow, Request.toImage_toNat]
  omega

@[simp] theorem Request.toImage_ofImage (w : BitVec 104) : (Request.ofImage w).toImage = w := by
  have := w.isLt
  rw [← BitVec.toNat_inj, Request.toImage_toNat]
  simp only [Request.ofImage, BitVec.extractLsb'_toNat, Nat.shiftRight_eq_div_pow]
  omega

theorem Machine.Response.toImage_toNat (r : Response) : r.toImage.toNat =
    r.y.toNat + (if r.ill then 2 ^ 32 else 0) + r.cause.toNat * 2 ^ 33 := by
  have := r.y.isLt
  have : (BitVec.ofBool r.ill).toNat = if r.ill then 1 else 0 := by cases r.ill <;> rfl
  simp only [Response.toImage, BitVec.toNat_append]
  rw [← Nat.shiftLeft_add_eq_or_of_lt, ← Nat.shiftLeft_add_eq_or_of_lt]
  · simp only [Nat.shiftLeft_eq]
    split_ifs at * <;> omega
  all_goals omega

/-! ## The control byte in numbers (R62) -/

/-- The fields of a built control byte, as numbers. -/
theorem ctlOf_toNat (op : BitVec 4) (m : BitVec 2) : (ctlOf op m).toNat = op.toNat + 16 * m.toNat := by
  revert op m; decide

/-- A control byte with clear reserved bits is its operation and mode codes. -/
theorem Request.ctl_eq_ctlOf {q : Request} (hr : rsvBits q = 0) : q.ctl = ctlOf q.op q.mode := by
  rw [rsvBits] at hr
  rw [← BitVec.toNat_inj, ctlOf_toNat, q.op_toNat, q.mode_toNat]
  omega

/-! ## Decoding what was encoded -/

/-- Decoding reads every field back from where the encoder put it. -/
theorem decode_encode (i : Instr) : decode (encode i) = .op i := by
  cases i <;> simp [encode, decode, decodeOp, withMode, Request.rsv, Request.op, Request.mode]

theorem decodeImage_encodeImage (i : Instr) : decodeImage (encodeImage i) = .op i := by
  rw [decodeImage, encodeImage, Request.ofImage_toImage, decode_encode]

/-! ## Everything decoding can answer -/

theorem Request.rsv_eq_zero {q : Request} : q.rsv = 0#2 ↔ rsvBits q = 0 := by
  rw [← BitVec.toNat_inj, q.rsv_toNat]
  rfl

theorem Request.op_eq_iff {q : Request} {op : BitVec 4} : q.op = op ↔ opBits q = op.toNat := by
  rw [← BitVec.toNat_inj, q.op_toNat]
  rfl

theorem Request.mode_eq_iff {q : Request} {m : BitVec 2} : q.mode = m ↔ modeBits q = m.toNat := by
  rw [← BitVec.toNat_inj, q.mode_toNat]
  rfl

theorem DenormMode.code_ne_three (m : DenormMode) : m.code ≠ 3#2 := by
  cases m <;> decide

/-- The low half of a port, put back on a port, is what `readPart` keeps of it. -/
theorem setWidth_halfOf (x : Word) : (halfOf x).setWidth 32 = BitVec.ofNat 32 (x.toNat % 2 ^ 16) := by
  rw [← BitVec.toNat_inj, BitVec.toNat_setWidth, halfOf_toNat, BitVec.toNat_ofNat]

/-- `readPart` in the model's own fields. -/
theorem readPart_eq {q : Request} (hr : rsvBits q = 0) :
    readPart q =
      { ctl := ctlOf q.op (if readsMode (opBits q) then q.mode else 0#2)
        a := if readsHalves (opBits q) then (halfOf q.a).setWidth 32 else q.a
        b := if readsB (opBits q) then if readsHalves (opBits q) then (halfOf q.b).setWidth 32 else q.b else 0#32
        c := if readsC (opBits q) then q.c else 0#32 } := by
  have hctl : ctlOf q.op 0#2 = BitVec.ofNat 8 (rsvBits q * 64 + opBits q) := by
    rw [← BitVec.toNat_inj, ctlOf_toNat, q.op_toNat, hr, opBits, BitVec.toNat_ofNat]
    simp only [BitVec.toNat_ofNat]
    omega
  simp only [readPart, Request.mk.injEq, setWidth_halfOf, and_self, and_true]
  split_ifs
  · exact Request.ctl_eq_ctlOf hr
  · exact hctl.symm

/-- Everything decoding can answer once the reserved bits are clear: one of two causes of R142, or an instruction that
holds what its operation reads. -/
theorem decodeOp_cases {q : Request} (hr : rsvBits q = 0) :
    (13 ≤ opBits q ∧ decodeOp q = .illegal .reservedOp) ∨
      (readsMode (opBits q) = true ∧ modeBits q = 3 ∧ decodeOp q = .illegal .reservedMode) ∨
      (legal q ∧ ∃ i, decodeOp q = .op i ∧ encode i = readPart q) := by
  rw [legal, readPart_eq hr]
  unfold decodeOp
  split
  case h_4 hop | h_6 hop | h_8 hop =>
    have ho := Request.op_eq_iff.1 hop
    obtain ⟨hm, h⟩ | ⟨m, hm, h⟩ := withMode_eq
    · exact .inr (.inl ⟨by simp [ho, readsMode], Request.mode_eq_iff.1 hm, h⟩)
    · have hm3 : modeBits q ≠ 3 := fun h3 => m.code_ne_three (hm.trans (Request.mode_eq_iff.2 h3))
      exact .inr (.inr ⟨by simp [hr, ho, hm3], _, h,
        by simp [encode, hop, ho, hm, readsMode, readsHalves, readsB, readsC]⟩)
  case h_14 =>
    refine .inl ⟨?_, rfl⟩
    simp only [imp_false, Request.op_eq_iff, BitVec.toNat_ofNat] at *
    omega
  all_goals
    next hop =>
    have ho := Request.op_eq_iff.1 hop
    exact .inr (.inr ⟨by simp [hr, ho], _, rfl, by simp [encode, hop, ho, readsMode, readsHalves, readsB, readsC]⟩)

theorem readsMode_eq_true {op : Nat} : readsMode op = true ↔ op = 3 ∨ op = 5 ∨ op = 7 := by
  simp [readsMode]

theorem decode_of_rsvBits {q : Request} (hr : rsvBits q = 0) : decode q = decodeOp q :=
  if_neg (not_not.2 (Request.rsv_eq_zero.2 hr))

/-- The encoding clause of an operation that reads no mode, from its arm of the operation map. -/
theorem encodedBy_of_decodeOp {op : BitVec 4} {build : Request → Instr}
    (h : ∀ q : Request, q.op = op → decodeOp q = .op (build q)) : encodedBy op.toNat build := by
  intro q hr ho
  rw [decode_of_rsvBits hr, h q (Request.op_eq_iff.2 ho)]

theorem decode_of_rsvBits_ne {q : Request} (hr : rsvBits q ≠ 0) : decode q = .illegal .reservedBits :=
  if_pos (mt Request.rsv_eq_zero.1 hr)

/-- Everything decoding can answer, by R69's conditions in R143's order: the cause of the first that holds, or,
when none does, an instruction that holds what its operation reads (R65). -/
theorem decode_cases (q : Request) :
    (rsvBits q ≠ 0 ∧ decode q = .illegal .reservedBits) ∨
      (rsvBits q = 0 ∧ 13 ≤ opBits q ∧ decode q = .illegal .reservedOp) ∨
      (rsvBits q = 0 ∧ readsMode (opBits q) = true ∧ modeBits q = 3 ∧ decode q = .illegal .reservedMode) ∨
      (legal q ∧ ∃ i, decode q = .op i ∧ encode i = readPart q) := by
  by_cases hr : rsvBits q = 0
  · rw [decode_of_rsvBits hr]
    obtain h | h | h := decodeOp_cases hr
    · exact .inr (.inl ⟨hr, h⟩)
    · exact .inr (.inr (.inl ⟨hr, h⟩))
    · exact .inr (.inr (.inr h))
  · exact .inl ⟨hr, decode_of_rsvBits_ne hr⟩

/-- A request that decodes to an instruction is legal, and the instruction holds what its operation reads. -/
theorem decode_eq_op {q : Request} {i : Instr} (h : decode q = .op i) : legal q ∧ encode i = readPart q := by
  obtain ⟨-, h'⟩ | ⟨-, -, h'⟩ | ⟨-, -, -, h'⟩ | ⟨hl, j, h', he⟩ := decode_cases q
  case inr.inr.inr =>
    obtain rfl : i = j := by simpa [h] using h'
    exact ⟨hl, he⟩
  all_goals simp [h] at h'

theorem decode_of_opBits_ge {q : Request} (hr : rsvBits q = 0) (ho : 13 ≤ opBits q) :
    decode q = .illegal .reservedOp := by
  obtain ⟨h, -⟩ | ⟨-, -, h⟩ | ⟨-, h, -⟩ | ⟨⟨-, h, -⟩, -⟩ := decode_cases q
  · exact absurd hr h
  · exact h
  · have := readsMode_eq_true.1 h
    omega
  · omega

theorem decode_of_modeBits {q : Request} (hr : rsvBits q = 0) (ho : readsMode (opBits q) = true)
    (hm : modeBits q = 3) : decode q = .illegal .reservedMode := by
  obtain ⟨h, -⟩ | ⟨-, h, -⟩ | ⟨-, -, -, h⟩ | ⟨⟨-, -, h⟩, -⟩ := decode_cases q
  · exact absurd hr h
  · have := readsMode_eq_true.1 ho
    omega
  · exact h
  · exact absurd ⟨readsMode_eq_true.1 ho, hm⟩ h

theorem decode_of_legal {q : Request} (hl : legal q) : ∃ i, decode q = .op i := by
  obtain ⟨hr, hop, hmode⟩ := hl
  obtain ⟨h, -⟩ | ⟨-, h, -⟩ | ⟨-, hreads, hm, -⟩ | ⟨-, i, hi, -⟩ := decode_cases q
  · exact absurd hr h
  · omega
  · exact absurd ⟨readsMode_eq_true.1 hreads, hm⟩ hmode
  · exact ⟨i, hi⟩

theorem wellFormed_iff (q : Request) : q.wellFormed = true ↔ legal q := by
  have hr : q.ctl.extractLsb' 6 2 = 0#2 ↔ rsvBits q = 0 := Request.rsv_eq_zero
  have ho (op : BitVec 4) : q.ctl.extractLsb' 0 4 = op ↔ opBits q = op.toNat := Request.op_eq_iff
  have hm : q.ctl.extractLsb' 4 2 = 3#2 ↔ modeBits q = 3 := Request.mode_eq_iff
  have hn : (q.ctl.extractLsb' 0 4).toNat = opBits q := q.op_toNat
  simp only [Request.wellFormed, rsvClear, opDefined, modeDefined, opReadsMode, Bool.and_eq_true, Bool.or_eq_true,
    beq_iff_eq, decide_eq_true_iff, Bool.not_eq_true', ← Bool.not_eq_true, hr, ho, hm, hn, legal, BitVec.toNat_ofNat]
  tauto

theorem encode_legal (i : Instr) : legal (encode i) := (decode_eq_op (decode_encode i)).1

/-- The encoder writes zero in everything R65 calls ignored. -/
theorem readPart_encode (i : Instr) : readPart (encode i) = encode i := (decode_eq_op (decode_encode i)).2.symm

/-- The control bits `readPart` keeps. -/
theorem readPart_bits (q : Request) : rsvBits (readPart q) = rsvBits q ∧ opBits (readPart q) = opBits q ∧
    (readsMode (opBits q) = true → modeBits (readPart q) = modeBits q) := by
  by_cases h : readsMode (opBits q) = true
  · have hctl : (readPart q).ctl = q.ctl := if_pos h
    simp only [rsvBits, opBits, modeBits, hctl, implies_true, and_self]
  · have hctl : (readPart q).ctl = BitVec.ofNat 8 (rsvBits q * 64 + opBits q) := if_neg h
    have := q.ctl.isLt
    refine ⟨?_, ?_, fun h' => absurd h' h⟩
    all_goals
      simp only [rsvBits, opBits, hctl, BitVec.toNat_ofNat]
      omega

/-- Decoding reads nothing but what `readPart` keeps. -/
theorem decode_readPart (q : Request) : decode (readPart q) = decode q := by
  obtain ⟨hr, ho, hm⟩ := readPart_bits q
  obtain ⟨h, hd⟩ | ⟨h, h', hd⟩ | ⟨h, h', h'', hd⟩ | ⟨-, i, hd, he⟩ := decode_cases q
  case inr.inr.inr => rw [← he, decode_encode, hd]
  all_goals rw [hd]
  · exact decode_of_rsvBits_ne (hr ▸ h)
  · exact decode_of_opBits_ge (hr.trans h) (ho ▸ h')
  · exact decode_of_modeBits (hr.trans h) (ho ▸ h') ((hm h').trans h'')

/-! ## The opcode table -/

/-- Every row fixes the reserved bits and the operation code, and asks for reserved bits `00` and a defined code. -/
theorem opcodeTable_rows : ∀ r ∈ opcodeTable, r.mask = 0xCF#8 ∧ r.pattern.toNat < 13 := by decide

/-- A row is known by its pattern. -/
theorem opcodeTable_pattern_injective :
    ∀ r ∈ opcodeTable, ∀ r' ∈ opcodeTable, r.pattern = r'.pattern → r = r' := by decide

/-- What the mask `0xCF` keeps of a control byte: the reserved bits and the operation code. -/
theorem and_rowMask_toNat (ctl : BitVec 8) : (ctl &&& 0xCF#8).toNat = ctl.toNat / 64 * 64 + ctl.toNat % 16 := by
  revert ctl; decide

/-- A row of the table matches a control byte exactly when the reserved bits are clear and the operation code is the
row's. -/
theorem row_matches_iff {r : OpcodeRow} (hr : r ∈ opcodeTable) (q : Request) :
    q.ctl &&& r.mask = r.pattern ↔ rsvBits q = 0 ∧ opBits q = r.pattern.toNat := by
  obtain ⟨hmask, hlt⟩ := opcodeTable_rows r hr
  rw [hmask, ← BitVec.toNat_inj, and_rowMask_toNat, rsvBits, opBits]
  omega

theorem row_unique {r r' : OpcodeRow} (hr : r ∈ opcodeTable) (hr' : r' ∈ opcodeTable) {ctl : BitVec 8}
    (h : ctl &&& r.mask = r.pattern) (h' : ctl &&& r'.mask = r'.pattern) : r = r' := by
  rw [(opcodeTable_rows r hr).1] at h
  rw [(opcodeTable_rows r' hr').1] at h'
  exact opcodeTable_pattern_injective r hr r' hr' (h.symm.trans h')

theorem opcodeTable_nodup : opcodeTable.Nodup := by decide

theorem encodedControl (i : Instr) : Laws.EncodedControl.Statement i := by
  cases i with
  | enc16 f => exact Laws.EncodedControl.enc16 f
  | dec32 h => exact Laws.EncodedControl.dec32 h
  | isnan16 h => exact Laws.EncodedControl.isnan16 h
  | cmpulp32 m s r t => exact Laws.EncodedControl.cmpulp32 m s r t
  | cmpulp16 s r t => exact Laws.EncodedControl.cmpulp16 s r t
  | cmpeps32 m s r e => exact Laws.EncodedControl.cmpeps32 m s r e
  | cmpeps16 s r e => exact Laws.EncodedControl.cmpeps16 s r e
  | cmprel32 m s r x => exact Laws.EncodedControl.cmprel32 m s r x
  | cmprel16 s r x => exact Laws.EncodedControl.cmprel16 s r x
  | isden32 f => exact Laws.EncodedControl.isden32 f
  | ftz32 f => exact Laws.EncodedControl.ftz32 f
  | feq32 a b => exact Laws.EncodedControl.feq32 a b
  | feqn32 a b => exact Laws.EncodedControl.feqn32 a b

/-- The row of a decoded instruction matches the control byte it was decoded from. -/
theorem row_of_decode {q : Request} {i : Instr} (h : decode q = .op i) :
    ∃ r ∈ opcodeTable, r.mnemonic = i.mnemonic ∧ q.ctl &&& r.mask = r.pattern := by
  obtain ⟨-, r, hr, hname, hmatch⟩ := encodedControl i
  obtain ⟨hrsv, hop, -⟩ := readPart_bits q
  rw [row_matches_iff hr, (decode_eq_op h).2, hrsv, hop] at hmatch
  exact ⟨r, hr, hname, (row_matches_iff hr q).2 hmatch⟩

theorem decode_of_row {q : Request} {r : OpcodeRow} (hr : r ∈ opcodeTable) (hmatch : q.ctl &&& r.mask = r.pattern) :
    (∃ i, decode q = .op i ∧ i.mnemonic = r.mnemonic) ∨
      (readsMode (opBits q) = true ∧ modeBits q = 3 ∧ decode q = .illegal .reservedMode) := by
  obtain ⟨hrsv, hop⟩ := (row_matches_iff hr q).1 hmatch
  have hlt := (opcodeTable_rows r hr).2
  obtain ⟨h, -⟩ | ⟨-, h, -⟩ | ⟨-, h⟩ | ⟨-, i, hi, -⟩ := decode_cases q
  · exact absurd hrsv h
  · omega
  · exact .inr h
  · obtain ⟨r', hr', hname, hmatch'⟩ := row_of_decode hi
    obtain rfl := row_unique hr hr' hmatch hmatch'
    exact .inl ⟨i, hi, hname.symm⟩

/-! ## Answers and assembler lines -/

theorem responseOf_congr {q q' : Request} (h : decode q = decode q') {p : Config.Params} {n : Nat} :
    responseOf p n q = responseOf p n q' := by
  rw [responseOf, h, responseOf]

theorem draws_congr {q q' : Request} (h : decode q = decode q') {p : Config.Params} :
    Request.draws p q = Request.draws p q' := by
  rw [Request.draws, h, Request.draws]

theorem assemble_instr_eq_some {ys mnemonic suffix operands q} :
    assemble ys (.instr mnemonic suffix operands) = some q ↔
      ∃ i, assembleInstr ys mnemonic suffix operands = some i ∧ encode i = q := by
  simp [assemble]

@[simp] theorem modeBits_ctlOf (op : BitVec 4) (m : BitVec 2) (a b c : Word) :
    modeBits ⟨ctlOf op m, a, b, c⟩ = m.toNat := by
  rw [← Request.mode_eq_iff, Request.mode, ctlOf_mode]

/-- The mode field of a 32-bit comparator's line is the code of its suffix, `any` when there is none. -/
theorem modeBits_of_assemble {ys mnemonic suffix operands q} {m : DenormMode}
    (hmn : mnemonic ∈ ["CMPULP32", "CMPEPS32", "CMPREL32"]) (hm : asmMode suffix = some m)
    (h : assemble ys (.instr mnemonic suffix operands) = some q) : modeBits q = m.code.toNat := by
  obtain ⟨i, hi, rfl⟩ := assemble_instr_eq_some.1 h
  unfold assembleInstr at hi
  split at hi
  case h_4 | h_6 | h_8 =>
    simp only [hm, Option.bind_eq_bind, Option.bind_some, Option.bind_eq_some_iff] at hi
    obtain ⟨s, -, r, -, t, -, hi⟩ := hi
    cases hi
    exact modeBits_ctlOf ..
  case h_14 => cases hi
  all_goals simp at hmn

/-- The two spellings of the mode Any (R73). -/
theorem assemble_suffix_any {mnemonic : String} (hmn : mnemonic ∈ ["CMPULP32", "CMPEPS32", "CMPREL32"])
    (ys : List Word) (operands : List Literal) :
    assemble ys (.instr mnemonic none operands) = assemble ys (.instr mnemonic (some "any") operands) := by
  simp only [List.mem_cons, List.not_mem_nil, or_false] at hmn
  obtain rfl | rfl | rfl := hmn
  all_goals
    simp only [assemble]
    congr 1
    rcases operands with _ | ⟨s, _ | ⟨r, _ | ⟨t, _ | _⟩⟩⟩ <;> rfl

/-! ## The statements -/

/-- Settles O8: decoding reads every field back from where the encoder put it. -/
theorem decodeImageOfEncodeImage : Obligations.DecodeImageOfEncodeImage :=
  decodeImage_encodeImage

/-- Settles O6, by `decode_cases`. -/
theorem decodeRefusesExactlyReservedControl : Obligations.DecodeRefusesExactlyReservedControl :=
  fun q => ⟨⟨fun ⟨_, h⟩ => (decode_eq_op h).1, decode_of_legal⟩, wellFormed_iff q⟩

/-- Settles O9. -/
theorem encodeOfDecodeKeepsEveryReadBit : Obligations.EncodeOfDecodeKeepsEveryReadBit :=
  fun _ _ h => (decode_eq_op h).2

/-- Settles O10: the answer to a request is a function of what it decodes to, and that of what `readPart` keeps. -/
theorem ignoredFieldsHaveNoEffect : Obligations.IgnoredFieldsHaveNoEffect := by
  intro s q q' qs h
  have hd : decode q = decode q' := by rw [← decode_readPart, h, decode_readPart]
  rw [step_of_pending rfl, step_of_pending rfl, drawsAfter, drawsAfter, responseOf_congr hd, draws_congr hd]

/-- Settles O11. -/
theorem opcodeRowsAreDisjoint : Obligations.OpcodeRowsAreDisjoint := by
  refine List.Pairwise.imp_of_mem ?_ opcodeTable_nodup
  exact fun hr hr' hne ctl ⟨h, h'⟩ => hne (row_unique hr hr' h h')

/-- Settles O12. -/
theorem decodeFollowsOpcodeTable : Obligations.DecodeFollowsOpcodeTable :=
  ⟨fun _ _ => row_of_decode, fun _ _ => decode_of_row⟩

/-- Settles O14. -/
theorem packedImagesFollowTheLayout : Obligations.PackedImagesFollowTheLayout :=
  ⟨fun q => ⟨q.toImage_toNat, q.ofImage_toImage⟩, Request.toImage_ofImage, Response.toImage_toNat⟩

/-- Settles O13: closed requests. -/
theorem writtenOutWordsDecode : Obligations.WrittenOutWordsDecode := by
  unfold Obligations.WrittenOutWordsDecode
  decide

/-- Settles O58: such a line is an encoded instruction. -/
theorem assemblerEmitsOnlyLegalRequests : Obligations.AssemblerEmitsOnlyLegalRequests := by
  intro ys mnemonic suffix operands q h
  obtain ⟨i, -, rfl⟩ := assemble_instr_eq_some.1 h
  exact ⟨encode_legal i, readPart_encode i⟩

/-- Settles O59. -/
theorem omittedModeIsAny : Obligations.OmittedModeIsAny :=
  fun ys _ operands _ hmn =>
    ⟨assemble_suffix_any hmn ys operands, modeBits_of_assemble (m := .any) hmn rfl,
      modeBits_of_assemble (m := .preserve) hmn rfl, modeBits_of_assemble (m := .flushToZero) hmn rfl⟩

end Sys2Proof
end

section
/-! PROOFS. The formats: classes and predicates by magnitude, values in units (`magOf`, which is strictly monotone in the
magnitude field), rounding, and the statements about them (spec/30_encoding.md rules R50 to R61, R67). -/

namespace Sys2Proof.Machine

open Spec

/-! ## The class of a pattern -/

section Classify

variable {e top m : Nat}

theorem classify_eq_zero : classify e top m = .zero ↔ e = 0 ∧ m = 0 := by
  unfold classify
  split_ifs <;> simp_all

theorem classify_eq_denormal : classify e top m = .denormal ↔ e = 0 ∧ m ≠ 0 := by
  unfold classify
  split_ifs <;> simp_all

theorem classify_eq_normal : classify e top m = .normal ↔ e ≠ 0 ∧ e ≠ top := by
  unfold classify
  split_ifs <;> simp_all

theorem classify_eq_infinity (ht : 0 ≠ top) : classify e top m = .infinity ↔ e = top ∧ m = 0 := by
  unfold classify
  split_ifs <;> simp_all

theorem classify_eq_nan (ht : 0 ≠ top) : classify e top m = .nan ↔ e = top ∧ m ≠ 0 := by
  unfold classify
  split_ifs <;> simp_all

end Classify

section Class32

variable (x : Word)

theorem abs32_lt : abs32 x < 2 ^ 31 := Nat.mod_lt _ (by decide)

/-- The exponent and mantissa fields are those of the magnitude. -/
theorem exp32_of_abs : (exp32 x).toNat = abs32 x / 2 ^ 23 := by
  rw [exp32_toNat, abs32]
  omega

theorem mant32_of_abs : (mant32 x).toNat = abs32 x % 2 ^ 23 := by
  rw [mant32_toNat, abs32]
  omega

theorem classify32_eq_zero : classify32 x = .zero ↔ abs32 x = 0 := by
  rw [classify32, classify_eq_zero, exp32_of_abs, mant32_of_abs]
  omega

theorem classify32_eq_denormal : classify32 x = .denormal ↔ den32 x := by
  rw [classify32, classify_eq_denormal, exp32_of_abs, mant32_of_abs, den32]
  omega

theorem classify32_eq_infinity : classify32 x = .infinity ↔ inf32 x := by
  rw [classify32, classify_eq_infinity (by decide), exp32_of_abs, mant32_of_abs, inf32]
  omega

theorem classify32_eq_nan : classify32 x = .nan ↔ nan32 x := by
  have := abs32_lt x
  rw [classify32, classify_eq_nan (by decide), exp32_of_abs, mant32_of_abs, nan32]
  omega

@[simp] theorem isNaN32_iff : isNaN32 x = true ↔ nan32 x := by
  rw [isNaN32, decide_eq_true_iff, classify32_eq_nan]

@[simp] theorem isInf32_iff : isInf32 x = true ↔ inf32 x := by
  rw [isInf32, decide_eq_true_iff, classify32_eq_infinity]

@[simp] theorem isZero32_iff : isZero32 x = true ↔ abs32 x = 0 := by
  rw [isZero32, decide_eq_true_iff, classify32_eq_zero]

/-- The bit test of a denormal is its class. -/
@[simp] theorem isDenormal32_iff : isDenormal32 x = true ↔ den32 x := by
  rw [← classify32_eq_denormal, classify32, classify_eq_denormal]
  simp [isDenormal32, ← BitVec.toNat_inj]

theorem sign32_iff : sign32 x = true ↔ neg32 x := by
  rw [sign32_eq, decide_eq_true_iff]

end Class32

section Class16

variable (h : Half)

theorem abs16_lt : abs16 h < 2 ^ 15 := Nat.mod_lt _ (by decide)

theorem exp16_of_abs : (exp16 h).toNat = abs16 h / 2 ^ 10 := by
  rw [exp16_toNat, abs16]
  omega

theorem mant16_of_abs : (mant16 h).toNat = abs16 h % 2 ^ 10 := by
  rw [mant16_toNat, abs16]
  omega

theorem classify16_eq_infinity : classify16 h = .infinity ↔ abs16 h = 0x7C00 := by
  rw [classify16, classify_eq_infinity (by decide), exp16_of_abs, mant16_of_abs]
  omega

theorem classify16_eq_nan : classify16 h = .nan ↔ nan16 h := by
  have := abs16_lt h
  rw [classify16, classify_eq_nan (by decide), exp16_of_abs, mant16_of_abs, nan16]
  omega

/-- The mask of R55 keeps the exponent field. -/
theorem and_exp16Mask : h &&& exp16Mask = (exp16 h).setWidth 16 <<< 10 := by
  ext i hi
  simp only [exp16Mask, exp16]
  interval_cases i <;> simp

theorem and_frac16Mask : h &&& frac16Mask = (mant16 h).setWidth 16 := by
  ext i hi
  simp only [frac16Mask, mant16]
  interval_cases i <;> simp

/-- The mask test of R55 is the class NaN of R53. -/
@[simp] theorem isNaN16_iff : isNaN16 h = true ↔ nan16 h := by
  have he : (exp16 h).setWidth 16 <<< 10 = exp16Mask ↔ exp16 h = 0x1F#5 := by
    generalize exp16 h = e
    revert e; decide
  have hm : (mant16 h).setWidth 16 = 0#16 ↔ mant16 h = 0#10 := by
    have := (mant16 h).isLt
    simp only [← BitVec.toNat_inj, BitVec.toNat_setWidth, BitVec.toNat_ofNat]
    omega
  rw [← classify16_eq_nan, classify16, classify_eq_nan (by decide)]
  simp only [isNaN16, and_exp16Mask, and_frac16Mask, Bool.and_eq_true, beq_iff_eq, bne_iff_ne, ne_eq, he, hm]
  simp [← BitVec.toNat_inj]

end Class16

/-! ## Values in units -/

/-- The magnitude of the pattern with magnitude field `a`, in units of the smallest denormal; `w` is the width of the
mantissa field. -/
def magOf (w a : Nat) : Nat := magUnits w (a / 2 ^ w) (a % 2 ^ w)

section Units

variable {w : Nat}

theorem magUnits_zero (m : Nat) : magUnits w 0 m = m := if_pos rfl

theorem magUnits_succ (e m : Nat) : magUnits w (e + 1) m = (2 ^ w + m) * 2 ^ e := if_neg e.succ_ne_zero

theorem magOf_of_lt {a : Nat} (h : a < 2 ^ w) : magOf w a = a := by
  rw [magOf, Nat.div_eq_of_lt h, Nat.mod_eq_of_lt h, magUnits_zero]

/-- A magnitude field is an exponent and a mantissa field. -/
theorem exists_fields (w a : Nat) : ∃ e m, m < 2 ^ w ∧ a = e * 2 ^ w + m :=
  ⟨a / 2 ^ w, a % 2 ^ w, Nat.mod_lt _ (by positivity), (Nat.div_add_mod' a _).symm⟩

/-- The magnitude by fields. -/
theorem magOf_fields (e : Nat) {m : Nat} (h : m < 2 ^ w) : magOf w (e * 2 ^ w + m) = magUnits w e m := by
  have hpos : 0 < 2 ^ w := by positivity
  rw [magOf, Nat.mul_comm e, Nat.mul_add_div hpos, Nat.mul_add_mod, Nat.div_eq_of_lt h, Nat.mod_eq_of_lt h, Nat.add_zero]

/-- A rounded quotient `q` at exponent `k`: also when it has carried out of its `w + 1` bits. -/
theorem magOf_quotient {k q : Nat} (hq : q ≤ 2 ^ (w + 1)) (hk : k = 0 ∨ 2 ^ w ≤ q) :
    magOf w (k * 2 ^ w + q) = q * 2 ^ k := by
  have hpos : 0 < 2 ^ w := by positivity
  rw [pow_succ] at hq
  obtain hlt | hge := lt_or_ge q (2 ^ w)
  · obtain rfl : k = 0 := hk.resolve_right hlt.not_ge
    rw [Nat.zero_mul, Nat.zero_add, magOf_of_lt hlt, pow_zero, mul_one]
  · obtain ⟨m, rfl⟩ := Nat.exists_eq_add_of_le hge
    obtain hm | rfl : m < 2 ^ w ∨ m = 2 ^ w := by omega
    · rw [← Nat.add_assoc, ← Nat.succ_mul, magOf_fields _ hm, magUnits_succ]
    · rw [show k * 2 ^ w + (2 ^ w + 2 ^ w) = (k + 1 + 1) * 2 ^ w + 0 by ring, magOf_fields _ hpos, magUnits_succ]
      ring

/-- A larger magnitude field is a larger magnitude. -/
theorem magOf_strictMono : StrictMono (magOf w) := by
  refine strictMono_nat_of_lt_succ fun a => ?_
  have hpos : 0 < 2 ^ w := by positivity
  obtain ⟨e, m, hm, rfl⟩ := exists_fields w a
  rw [magOf_fields e hm]
  obtain hm' | hm' : m + 1 < 2 ^ w ∨ m + 1 = 2 ^ w := by omega
  · rw [Nat.add_assoc, magOf_fields e hm']
    cases e with
    | zero => simp [magUnits_zero]
    | succ e =>
      rw [magUnits_succ, magUnits_succ]
      gcongr
      omega
  · rw [Nat.add_assoc, hm', ← Nat.succ_mul, ← Nat.add_zero (_ * _), magOf_fields _ hpos, magUnits_succ]
    cases e with
    | zero => simp [magUnits_zero]; omega
    | succ e =>
      rw [magUnits_succ, pow_succ', ← mul_assoc]
      gcongr
      omega

@[simp] theorem magOf_zero : magOf w 0 = 0 := magOf_of_lt (by positivity)

@[simp] theorem magOf_eq_zero {a : Nat} : magOf w a = 0 ↔ a = 0 := by
  rw [← magOf_strictMono.injective.eq_iff (a := a), magOf_zero]

/-- A magnitude with at least `w + 1` bits from bit `k` on is a multiple of `2 ^ k`. -/
theorem dvd_magOf {a k : Nat} (h : 2 ^ (k + w) ≤ magOf w a) : 2 ^ k ∣ magOf w a := by
  obtain ⟨e, m, hm, rfl⟩ := exists_fields w a
  rw [magOf_fields e hm] at *
  cases e with
  | zero =>
    rw [magUnits_zero] at h
    have : 2 ^ w ≤ 2 ^ (k + w) := Nat.pow_le_pow_right (by decide) (by omega)
    omega
  | succ e =>
    rw [magUnits_succ] at *
    have hlt : (2 ^ w + m) * 2 ^ e < 2 ^ (w + 1 + e) := by
      rw [pow_add, pow_succ, mul_two]
      gcongr
    have : k + w < w + 1 + e := (Nat.pow_lt_pow_iff_right (by decide)).1 (h.trans_lt hlt)
    exact (pow_dvd_pow 2 (by omega)).mul_left _

/-- R56 and R57 by fields: the normal row in units. -/
theorem magUnits_mul_zpow {e : Nat} (he : e ≠ 0) (m : Nat) (b : ℤ) :
    (magUnits w e m : ℚ) * (2 : ℚ) ^ (-b) = (2 ^ w + m) * (2 : ℚ) ^ ((e : ℤ) - (b + 1)) := by
  obtain ⟨e, rfl⟩ := Nat.exists_eq_succ_of_ne_zero he
  rw [magUnits_succ]
  push_cast
  rw [mul_assoc, ← zpow_natCast (2 : ℚ) e, ← zpow_add₀ two_ne_zero]
  congr 2
  ring

end Units

theorem cast_signed (neg : Bool) (u : Nat) :
    ((if neg then -(u : Int) else u : Int) : ℚ) = (if neg then -1 else 1) * u := by
  cases neg <;> simp

/-! ## The values of binary32 patterns (R56) -/

section Values32

variable {x : Word}

theorem units32_eq (x : Word) :
    units32 x = if sign32 x then -(magOf 23 (abs32 x) : Int) else magOf 23 (abs32 x) := by
  rw [units32, exp32_of_abs, mant32_of_abs]
  rfl

theorem val32_of_normal (hc : classify32 x = .normal) :
    val32 x = some ((if sign32 x then -1 else 1) * (2 ^ 23 + (mant32 x).toNat) *
      (2 : ℚ) ^ (((exp32 x).toNat : ℤ) - 150)) := by
  rw [val32, hc]

theorem val32_of_normal_fields {e m : Nat} (hx : x.toNat = e * 2 ^ 23 + m) (hm : m < 2 ^ 23) (h1 : 1 ≤ e)
    (h254 : e ≤ 254) : val32 x = some ((2 ^ 23 + m) * (2 : ℚ) ^ ((e : ℤ) - 150)) := by
  have he : (exp32 x).toNat = e := by rw [exp32_toNat]; omega
  have hm : (mant32 x).toNat = m := by rw [mant32_toNat]; omega
  have hs : sign32 x = false := by rw [sign32_eq, decide_eq_false_iff_not]; omega
  have hc : classify32 x = .normal := classify_eq_normal.2 (by omega)
  simp [val32_of_normal hc, he, hm, hs]

/-- The finite rows of R56 in units of 2^-149. -/
theorem val32_of_finite (h : abs32 x < 0x7F800000) :
    val32 x = some ((units32 x : ℚ) * (2 : ℚ) ^ (-149 : ℤ)) := by
  rw [units32, cast_signed]
  cases hc : classify32 x with
  | zero =>
    obtain ⟨he, hm⟩ := classify_eq_zero.1 hc
    simp [val32, hc, he, hm, magUnits_zero]
  | denormal =>
    obtain ⟨he, -⟩ := classify_eq_denormal.1 hc
    simp [val32, hc, he, magUnits_zero]
  | normal =>
    obtain ⟨he, -⟩ := classify_eq_normal.1 hc
    rw [val32_of_normal hc, mul_assoc, mul_assoc, magUnits_mul_zpow he]
    rfl
  | infinity => exact absurd ((classify32_eq_infinity x).1 hc) h.ne
  | nan => exact absurd ((classify32_eq_nan x).1 hc) h.not_gt

theorem val32_of_not_finite (h : 0x7F800000 ≤ abs32 x) : val32 x = none := by
  obtain h | h := h.eq_or_lt
  · rw [val32, (classify32_eq_infinity x).2 h.symm]
  · rw [val32, (classify32_eq_nan x).2 h]

theorem val32_eq_some {v : ℚ} :
    val32 x = some v ↔ abs32 x < 0x7F800000 ∧ (units32 x : ℚ) * (2 : ℚ) ^ (-149 : ℤ) = v := by
  by_cases h : abs32 x < 0x7F800000
  · simp [val32_of_finite h, h]
  · simp [val32_of_not_finite (not_lt.1 h), h]

theorem extVal32_of_finite (h : abs32 x < 0x7F800000) : extVal32 x = some (.fin (units32 x)) := by
  obtain ⟨hc, -⟩ | ⟨hc, -⟩ | ⟨-, -, hv⟩ := extVal32_cases x
  · exact absurd ((classify32_eq_nan x).1 hc) h.not_gt
  · exact absurd ((classify32_eq_infinity x).1 hc) h.ne
  · exact hv

theorem extVal32_of_inf (h : inf32 x) : extVal32 x = some (if sign32 x then .negInf else .posInf) := by
  rw [extVal32, (classify32_eq_infinity x).2 h]

theorem extVal32_of_nan (h : nan32 x) : extVal32 x = none := by
  rw [extVal32, (classify32_eq_nan x).2 h]

/-- The two infinities by magnitude and sign. -/
theorem eq_posInf32 : x = 0x7F800000#32 ↔ inf32 x ∧ sign32 x = false := by
  have := x.isLt
  rw [← BitVec.toNat_inj, inf32, abs32, sign32_eq, decide_eq_false_iff_not, BitVec.toNat_ofNat]
  omega

theorem eq_negInf32 : x = 0xFF800000#32 ↔ inf32 x ∧ sign32 x = true := by
  have := x.isLt
  rw [← BitVec.toNat_inj, inf32, abs32, sign32_eq, decide_eq_true_iff, BitVec.toNat_ofNat]
  omega

theorem extVal32_eq_none : extVal32 x = none ↔ nan32 x := by
  obtain h | h | h := lt_trichotomy (abs32 x) 0x7F800000
  · simp [extVal32_of_finite h, h.le]
  · simp [extVal32_of_inf h, h]
  · simp [extVal32_of_nan h, h]

theorem extVal32_eq_posInf : extVal32 x = some .posInf ↔ x = 0x7F800000#32 := by
  rw [eq_posInf32]
  obtain h | h | h := lt_trichotomy (abs32 x) 0x7F800000
  · simp [extVal32_of_finite h, h.ne]
  · simp [extVal32_of_inf h, inf32, h]
  · simp [extVal32_of_nan h, h.ne']

theorem extVal32_eq_negInf : extVal32 x = some .negInf ↔ x = 0xFF800000#32 := by
  rw [eq_negInf32]
  obtain h | h | h := lt_trichotomy (abs32 x) 0x7F800000
  · simp [extVal32_of_finite h, h.ne]
  · simp [extVal32_of_inf h, inf32, h]
  · simp [extVal32_of_nan h, h.ne']

theorem extVal32_eq_fin {u : Int} : extVal32 x = some (.fin u) ↔ abs32 x < 0x7F800000 ∧ units32 x = u := by
  obtain h | h | h := lt_trichotomy (abs32 x) 0x7F800000
  · simp [extVal32_of_finite h, h]
  · cases hs : sign32 x <;> simp [extVal32_of_inf h, h, hs]
  · simp [extVal32_of_nan h, h.le]

/-- R56 in the extended reals, by the pattern. -/
theorem extVal32_eq (x : Word) :
    extVal32 x = if nan32 x then none else if x = 0x7F800000#32 then some .posInf
      else if x = 0xFF800000#32 then some .negInf else some (.fin (units32 x)) := by
  split_ifs with hn hp hm
  · exact extVal32_of_nan hn
  · exact extVal32_eq_posInf.2 hp
  · exact extVal32_eq_negInf.2 hm
  · refine extVal32_of_finite (lt_of_le_of_ne (not_lt.1 hn) fun hi => ?_)
    cases hs : sign32 x
    · exact hp (eq_posInf32.2 ⟨hi, hs⟩)
    · exact hm (eq_negInf32.2 ⟨hi, hs⟩)

/-- Different patterns have different units, but for the two zeros. -/
theorem units32_eq_iff {p q : Word} : units32 p = units32 q ↔ (abs32 p = 0 ∧ abs32 q = 0) ∨ p = q := by
  have hp0 : magOf 23 (abs32 p) = 0 ↔ abs32 p = 0 := magOf_eq_zero
  have hq0 : magOf 23 (abs32 q) = 0 ↔ abs32 q = 0 := magOf_eq_zero
  have hinj : magOf 23 (abs32 p) = magOf 23 (abs32 q) ↔ abs32 p = abs32 q := magOf_strictMono.injective.eq_iff
  have := p.isLt
  have := q.isLt
  rw [units32_eq, units32_eq, ← BitVec.toNat_inj]
  simp only [sign32_iff, neg32, abs32] at *
  split_ifs <;> omega

/-! ## Equality and order of values (R58, R60) -/

/-- R58's chain of tests, in numbers. -/
theorem valEq32_iff {p q : Word} : valEq32 p q = true ↔ valueEq p q := by
  simp only [valEq32, Bool.or_eq_true, Bool.and_eq_true, isNaN32_iff, isZero32_iff, valueEq]
  split_ifs with hn hz
  · simp only [false_iff]
    tauto
  · tauto
  · rw [beq_iff_eq]
    tauto

theorem valueEq_iff {p q : Word} : valueEq p q ↔ ∃ v, extVal32 p = some v ∧ extVal32 q = some v := by
  constructor
  · rintro ⟨hp, hq, ⟨hp0, hq0⟩ | rfl⟩
    · have hu : units32 p = units32 q := units32_eq_iff.2 (.inl ⟨hp0, hq0⟩)
      exact ⟨.fin (units32 q), extVal32_eq_fin.2 ⟨by omega, hu⟩, extVal32_eq_fin.2 ⟨by omega, rfl⟩⟩
    · obtain ⟨v, hv⟩ := Option.ne_none_iff_exists'.1 (mt extVal32_eq_none.1 hp)
      exact ⟨v, hv, hv⟩
  · rintro ⟨v, hp, hq⟩
    have hpn : ¬ nan32 p := fun h => by simp [extVal32_of_nan h] at hp
    have hqn : ¬ nan32 q := fun h => by simp [extVal32_of_nan h] at hq
    refine ⟨hpn, hqn, ?_⟩
    cases v with
    | negInf => exact .inr ((extVal32_eq_negInf.1 hp).trans (extVal32_eq_negInf.1 hq).symm)
    | posInf => exact .inr ((extVal32_eq_posInf.1 hp).trans (extVal32_eq_posInf.1 hq).symm)
    | fin u => exact units32_eq_iff.1 ((extVal32_eq_fin.1 hp).2.trans (extVal32_eq_fin.1 hq).2.symm)

/-- Less-than of two values that may be missing. -/
theorem extLt_iff {a b : Option ExtVal} : extLt a b = true ↔ a ≠ none ∧ b ≠ none ∧
    ((a = some .negInf ∧ b ≠ some .negInf) ∨ (a ≠ some .posInf ∧ b = some .posInf) ∨
      ∃ u v, a = some (.fin u) ∧ b = some (.fin v) ∧ u < v) := by
  cases a with
  | none => simp [extLt]
  | some a =>
    cases b with
    | none => simp [extLt]
    | some b => cases a <;> cases b <;> simp [extLt, ExtVal.lt]

/-- Finite values compare as their units do. -/
theorem exists_val32_lt_iff {p q : Word} :
    (∃ v w, val32 p = some v ∧ val32 q = some w ∧ v < w) ↔
      ∃ u v, extVal32 p = some (.fin u) ∧ extVal32 q = some (.fin v) ∧ u < v := by
  have hpos : (0 : ℚ) < 2 ^ (-149 : ℤ) := by positivity
  simp only [val32_eq_some, extVal32_eq_fin]
  constructor
  · rintro ⟨v, w, ⟨hp, rfl⟩, ⟨hq, rfl⟩, h⟩
    exact ⟨_, _, ⟨hp, rfl⟩, ⟨hq, rfl⟩, Int.cast_lt.1 ((mul_lt_mul_iff_left₀ hpos).1 h)⟩
  · rintro ⟨u, v, ⟨hp, rfl⟩, ⟨hq, rfl⟩, h⟩
    exact ⟨_, _, ⟨hp, rfl⟩, ⟨hq, rfl⟩, (mul_lt_mul_iff_left₀ hpos).2 (Int.cast_lt.2 h)⟩

theorem lt32_iff {p q : Word} : lt32 p q = true ↔
    ¬ nan32 p ∧ ¬ nan32 q ∧
    ((p = 0xFF800000#32 ∧ q ≠ 0xFF800000#32) ∨ (p ≠ 0x7F800000#32 ∧ q = 0x7F800000#32) ∨
      ∃ v w, val32 p = some v ∧ val32 q = some w ∧ v < w) := by
  rw [lt32, extLt_iff, exists_val32_lt_iff]
  simp only [ne_eq, extVal32_eq_none, extVal32_eq_negInf, extVal32_eq_posInf]

end Values32

/-! ## The values of binary16 patterns (R57) -/

section Values16

variable {h : Half}

theorem val16_of_normal (hc : classify16 h = .normal) :
    val16 h = some ((if sign16 h then -1 else 1) * (2 ^ 10 + (mant16 h).toNat) *
      (2 : ℚ) ^ (((exp16 h).toNat : ℤ) - 25)) := by
  rw [val16, hc]

theorem val16_of_normal_fields {e m : Nat} (hh : h.toNat = e * 2 ^ 10 + m) (hm : m < 2 ^ 10) (h1 : 1 ≤ e)
    (h30 : e ≤ 30) : val16 h = some ((2 ^ 10 + m) * (2 : ℚ) ^ ((e : ℤ) - 25)) := by
  have he : (exp16 h).toNat = e := by rw [exp16_toNat]; omega
  have hm : (mant16 h).toNat = m := by rw [mant16_toNat]; omega
  have hs : sign16 h = false := by rw [sign16_eq, decide_eq_false_iff_not]; omega
  have hc : classify16 h = .normal := classify_eq_normal.2 (by omega)
  simp [val16_of_normal hc, he, hm, hs]

theorem val16_of_denormal (hc : classify16 h = .denormal) :
    val16 h = some ((if sign16 h then -1 else 1) * (mant16 h).toNat * (2 : ℚ) ^ (-24 : ℤ)) := by
  rw [val16, hc]

/-- The finite rows of R57 in units of 2^-24. -/
theorem val16_of_finite (hf : abs16 h < 0x7C00) :
    val16 h = some ((units16 h : ℚ) * (2 : ℚ) ^ (-24 : ℤ)) := by
  rw [units16, cast_signed]
  cases hc : classify16 h with
  | zero =>
    obtain ⟨he, hm⟩ := classify_eq_zero.1 hc
    simp [val16, hc, he, hm, magUnits_zero]
  | denormal =>
    obtain ⟨he, -⟩ := classify_eq_denormal.1 hc
    rw [val16_of_denormal hc, he, magUnits_zero]
  | normal =>
    obtain ⟨he, -⟩ := classify_eq_normal.1 hc
    rw [val16_of_normal hc, mul_assoc, mul_assoc, magUnits_mul_zpow he]
    rfl
  | infinity => exact absurd ((classify16_eq_infinity h).1 hc) hf.ne
  | nan => exact absurd ((classify16_eq_nan h).1 hc) hf.not_gt

theorem val16_of_not_finite (hf : 0x7C00 ≤ abs16 h) : val16 h = none := by
  obtain hi | hn := hf.eq_or_lt
  · rw [val16, (classify16_eq_infinity h).2 hi.symm]
  · rw [val16, (classify16_eq_nan h).2 hn]

theorem extVal16_of_finite (hf : abs16 h < 0x7C00) : extVal16 h = some (.fin (units16 h * 2 ^ 125)) := by
  obtain ⟨hc, -⟩ | ⟨hc, -⟩ | ⟨-, -, hv⟩ := extVal16_cases h
  · exact absurd ((classify16_eq_nan h).1 hc) hf.not_gt
  · exact absurd ((classify16_eq_infinity h).1 hc) hf.ne
  · exact hv

theorem extVal16_of_inf (hi : abs16 h = 0x7C00) : extVal16 h = some (if sign16 h then .negInf else .posInf) := by
  rw [extVal16, (classify16_eq_infinity h).2 hi]

theorem extVal16_of_nan (hn : nan16 h) : extVal16 h = none := by
  rw [extVal16, (classify16_eq_nan h).2 hn]

/-- The two infinities by magnitude and sign. -/
theorem eq_posInf16 : h = 0x7C00#16 ↔ abs16 h = 0x7C00 ∧ sign16 h = false := by
  have := h.isLt
  rw [← BitVec.toNat_inj, abs16, sign16_eq, decide_eq_false_iff_not, BitVec.toNat_ofNat]
  omega

theorem eq_negInf16 : h = 0xFC00#16 ↔ abs16 h = 0x7C00 ∧ sign16 h = true := by
  have := h.isLt
  rw [← BitVec.toNat_inj, abs16, sign16_eq, decide_eq_true_iff, BitVec.toNat_ofNat]
  omega

/-- R57 in the extended reals, by the pattern. -/
theorem extVal16_eq (h : Half) :
    extVal16 h = if nan16 h then none else if h = 0x7C00#16 then some .posInf
      else if h = 0xFC00#16 then some .negInf else some (.fin (units16 h * 2 ^ 125)) := by
  split_ifs with hn hp hm
  · exact extVal16_of_nan hn
  · obtain ⟨hi, hs⟩ := eq_posInf16.1 hp
    simp [extVal16_of_inf hi, hs]
  · obtain ⟨hi, hs⟩ := eq_negInf16.1 hm
    simp [extVal16_of_inf hi, hs]
  · refine extVal16_of_finite (lt_of_le_of_ne (not_lt.1 hn) fun hi => ?_)
    cases hs : sign16 h
    · exact hp (eq_posInf16.2 ⟨hi, hs⟩)
    · exact hm (eq_negInf16.2 ⟨hi, hs⟩)

end Values16

/-! ## Rounding to binary32 (R59) -/

/-- The value of a finite pattern without a sign. -/
theorem val32_of_lt {x : Word} (h : x.toNat < 0x7F800000) :
    val32 x = some ((magOf 23 x.toNat : ℚ) * (2 : ℚ) ^ (-149 : ℤ)) := by
  have habs : abs32 x = x.toNat := Nat.mod_eq_of_lt (by omega)
  have hs : sign32 x = false := by rw [sign32_eq, decide_eq_false_iff_not]; omega
  rw [val32_of_finite (habs ▸ h), units32_eq, hs, habs]
  simp

/-- Everything `roundShift` can answer: the quotient or its successor, by the remainder; a tie goes to the even one. -/
theorem roundShift_cases (n k : Nat) : ∃ q r, q = n / 2 ^ k ∧ q * 2 ^ k + r = n ∧ r < 2 ^ k ∧
    ((roundShift n k = q ∧ 2 * r ≤ 2 ^ k ∧ (2 * r = 2 ^ k → q % 2 = 0)) ∨
      (roundShift n k = q + 1 ∧ 2 ^ k ≤ 2 * r ∧ (2 * r = 2 ^ k → q % 2 = 1))) := by
  refine ⟨n / 2 ^ k, n % 2 ^ k, rfl, Nat.div_add_mod' n _, Nat.mod_lt _ (by positivity), ?_⟩
  simp only [roundShift]
  split_ifs with h <;> omega

/-- The rounded quotient is at most half a unit away. -/
theorem roundShift_error (n k : Nat) : 2 * Nat.dist (roundShift n k * 2 ^ k) n ≤ 2 ^ k := by
  obtain ⟨q, r, -, hn, hr, hround⟩ := roundShift_cases n k
  have hs : (q + 1) * 2 ^ k = q * 2 ^ k + 2 ^ k := Nat.succ_mul ..
  generalize 2 ^ k = d at *
  unfold Nat.dist
  obtain ⟨h, hle, -⟩ | ⟨h, hle, -⟩ := hround <;> rw [h] <;> omega

/-- No multiple of `2 ^ k` is nearer than the rounded quotient, and another one is as near only if the quotient is
even. -/
theorem roundShift_nearest (n k j : Nat) :
    Nat.dist (roundShift n k * 2 ^ k) n ≤ Nat.dist (j * 2 ^ k) n ∧
      (Nat.dist (roundShift n k * 2 ^ k) n = Nat.dist (j * 2 ^ k) n →
        j = roundShift n k ∨ roundShift n k % 2 = 0) := by
  obtain ⟨q, r, -, hn, hr, hround⟩ := roundShift_cases n k
  have hs : (q + 1) * 2 ^ k = q * 2 ^ k + 2 ^ k := Nat.succ_mul ..
  have hbelow (h : j < q) : j * 2 ^ k + 2 ^ k ≤ q * 2 ^ k := by
    rw [← Nat.succ_mul]
    exact Nat.mul_le_mul_right _ h
  have habove (h : q + 1 < j) : (q + 1) * 2 ^ k + 2 ^ k ≤ j * 2 ^ k := by
    rw [← Nat.succ_mul]
    exact Nat.mul_le_mul_right _ h
  generalize 2 ^ k = d at *
  unfold Nat.dist
  obtain hj | hj | rfl | rfl : j < q ∨ q + 1 < j ∨ j = q ∨ j = q + 1 := by omega
  all_goals obtain ⟨h, hle, he⟩ | ⟨h, hle, he⟩ := hround <;> rw [h] <;> omega

theorem roundShift_bounds (n k : Nat) : n / 2 ^ k ≤ roundShift n k ∧ roundShift n k ≤ n / 2 ^ k + 1 := by
  obtain ⟨q, r, rfl, -, -, ⟨h, -⟩ | ⟨h, -⟩⟩ := roundShift_cases n k <;> omega

/-! ## The exponent of the rounded number -/

/-- How many low bits of `n` do not fit into 24. -/
def excessBits (n : Nat) : Nat := Nat.log2 n - 23

theorem lt_pow_excessBits (n : Nat) : n < 2 ^ (excessBits n + 24) :=
  Nat.lt_log2_self.trans_le (Nat.pow_le_pow_right (by decide) (by unfold excessBits; omega))

theorem pow_excessBits_le {n : Nat} (h : excessBits n ≠ 0) : 2 ^ (excessBits n + 23) ≤ n := by
  have hlog : excessBits n + 23 = Nat.log2 n := by unfold excessBits at *; omega
  rw [hlog]
  refine Nat.log2_self_le fun h0 => h ?_
  rw [h0]
  decide

/-- The magnitude pattern of the rounded number, below the overflow bound. -/
def roundedAbs (n : Nat) : Nat := excessBits n * 2 ^ 23 + roundShift n (excessBits n)

theorem fl32_of_lt {n : Nat} (h : n < (2 ^ 128 - 2 ^ 103) * 2 ^ 149) : fl32 n = BitVec.ofNat 32 (roundedAbs n) :=
  if_neg (not_le.2 h)

/-- The pattern stands for the rounded quotient. -/
theorem magOf_roundedAbs (n : Nat) : magOf 23 (roundedAbs n) = roundShift n (excessBits n) * 2 ^ excessBits n := by
  obtain ⟨hlo, hhi⟩ := roundShift_bounds n (excessBits n)
  refine magOf_quotient (hhi.trans ?_) ?_
  · have := lt_pow_excessBits n
    rw [Nat.add_comm, pow_add] at this
    exact Nat.div_lt_of_lt_mul (Nat.mul_comm _ _ ▸ this)
  · refine or_iff_not_imp_left.2 fun h => le_trans ?_ hlo
    have := pow_excessBits_le h
    rw [Nat.add_comm, pow_add] at this
    exact (Nat.le_div_iff_mul_le (by positivity)).2 this

theorem roundedAbs_lt {n : Nat} (h : n < (2 ^ 128 - 2 ^ 103) * 2 ^ 149) : roundedAbs n < 0x7F800000 := by
  have htop : magOf 23 0x7F800000 = 2 ^ 23 * 2 ^ 254 := by
    rw [show 0x7F800000 = 255 * 2 ^ 23 + 0 by decide, magOf_fields 255 (by decide), magUnits_succ, Nat.add_zero]
  have herr := roundShift_error n (excessBits n)
  have hk : excessBits n ≤ 253 := by
    by_contra hk
    have hle := pow_excessBits_le (n := n) (by omega)
    rw [pow_add] at hle
    have : 2 ^ 254 ≤ 2 ^ excessBits n := Nat.pow_le_pow_right (by decide) (by omega)
    omega
  have hpow : 2 ^ excessBits n ≤ 2 ^ 253 := Nat.pow_le_pow_right (by decide) hk
  rw [← (magOf_strictMono (w := 23)).lt_iff_lt, htop, magOf_roundedAbs]
  unfold Nat.dist at herr
  omega

/-- No pattern's magnitude is nearer to `n`, and another one is as near only if the rounded pattern is even. -/
theorem roundedAbs_nearest (n a : Nat) :
    Nat.dist (magOf 23 (roundedAbs n)) n ≤ Nat.dist (magOf 23 a) n ∧
      (Nat.dist (magOf 23 (roundedAbs n)) n = Nat.dist (magOf 23 a) n → a = roundedAbs n ∨ roundedAbs n % 2 = 0) := by
  have heven : roundedAbs n % 2 = roundShift n (excessBits n) % 2 := by unfold roundedAbs; omega
  rw [← (magOf_strictMono (w := 23)).injective.eq_iff (a := a), heven, magOf_roundedAbs]
  by_cases hdvd : 2 ^ excessBits n ∣ magOf 23 a
  · obtain ⟨j, hj⟩ := hdvd
    rw [hj, Nat.mul_comm (2 ^ _) j]
    obtain ⟨hle, hties⟩ := roundShift_nearest n (excessBits n) j
    exact ⟨hle, fun h => (hties h).imp_left (congrArg (· * _))⟩
  · have hk : excessBits n ≠ 0 := fun h => hdvd (by simp [h])
    have hn := pow_excessBits_le hk
    have ha : magOf 23 a < 2 ^ (excessBits n + 23) := not_le.1 (mt dvd_magOf hdvd)
    obtain ⟨hle, -⟩ := roundShift_nearest n (excessBits n) (2 ^ 23)
    rw [← pow_add, Nat.add_comm 23] at hle
    have hlt : Nat.dist (2 ^ (excessBits n + 23)) n < Nat.dist (magOf 23 a) n := by unfold Nat.dist; omega
    exact ⟨(hle.trans_lt hlt).le, fun h => absurd h (hle.trans_lt hlt).ne⟩

/-- The distance of two values is that of their units. -/
theorem abs_units_sub (a b : Nat) {u : ℚ} (hu : 0 < u) :
    |(a : ℚ) * u - (b : ℚ) * u| = (Nat.dist a b : ℚ) * u := by
  rw [← sub_mul, abs_mul, abs_of_pos hu]
  obtain h | h := le_total a b
  · rw [Nat.dist_eq_sub_of_le h, Nat.cast_sub h, abs_sub_comm, abs_of_nonneg (sub_nonneg.2 (Nat.cast_le.2 h))]
  · rw [Nat.dist_eq_sub_of_le_right h, Nat.cast_sub h, abs_of_nonneg (sub_nonneg.2 (Nat.cast_le.2 h))]

/-! ## What ENC16 answers (R80, R81, R85) -/

/-- R81's magnitude: the sign bit is cleared. -/
theorem encAbs_eq (f : Word) : encAbs f = f &&& 0x7FFFFFFF#32 := by
  have hxor : f ^^^ (f &&& sign32Mask) = f &&& ~~~sign32Mask := by
    ext i hi
    cases hf : f[i] <;> simp [hf]
  exact hxor

theorem encAbs_toNat (f : Word) : (encAbs f).toNat = abs32 f := by
  rw [encAbs_eq, BitVec.toNat_and]
  exact Nat.and_two_pow_sub_one_eq_mod f.toNat 31

theorem encInBand_iff (f : Word) : encInBand f = true ↔ band f := by
  simp only [encInBand, BitVec.ult, encAbs_toNat, min16In32, max32, max16In32, Bool.and_eq_true, Bool.not_eq_true',
    decide_eq_true_iff, decide_eq_false_iff_not, BitVec.toNat_ofNat, band]
  omega

theorem encDraws_iff {ovf : Config.EncOvf} {f : Word} : encDraws ovf f = true ↔ ovf = .any ∧ band f := by
  rw [encDraws, Bool.and_eq_true, beq_iff_eq, encInBand_iff]

/-! ## The statements -/

/-- Settles O23, by `classify_eq_nan` and its kind. -/
theorem classesFollowTheFields : Obligations.ClassesFollowTheFields := by
  refine ⟨fun x => ?_, fun h => ?_⟩
  · simp only [classify32, classify_eq_zero, classify_eq_denormal, classify_eq_normal,
      classify_eq_infinity (show 0 ≠ 0xFF by decide), classify_eq_nan (show 0 ≠ 0xFF by decide),
      exp32_toNat, mant32_toNat, true_and, and_true]
    omega
  · simp only [classify16, classify_eq_zero, classify_eq_denormal, classify_eq_normal,
      classify_eq_infinity (show 0 ≠ 0x1F by decide), classify_eq_nan (show 0 ≠ 0x1F by decide),
      exp16_toNat, mant16_toNat, true_and, abs16]
    omega

/-- Settles O24. -/
theorem predicatesFollowTheMagnitude : Obligations.PredicatesFollowTheMagnitude :=
  ⟨fun x => ⟨isNaN32_iff x, isInf32_iff x, isZero32_iff x, isDenormal32_iff x, sign32_iff x⟩, isNaN16_iff⟩

/-- Settles O25: patterns of equal units are equal, but for the two zeros. -/
theorem valueEqualityIsEqualityOfValues : Obligations.ValueEqualityIsEqualityOfValues :=
  fun _ _ => ⟨valEq32_iff, valEq32_iff.trans valueEq_iff⟩

/-- Settles O26. -/
theorem unitsAreRealValues : Obligations.UnitsAreRealValues := by
  refine ⟨fun x => ?_, fun h => ?_, extVal32_eq, extVal16_eq⟩
  · have hfin : (isNaN32 x || isInf32 x) = true ↔ 0x7F800000 ≤ abs32 x := by
      rw [Bool.or_eq_true, isNaN32_iff, isInf32_iff]
      exact ⟨fun h => h.elim le_of_lt ge_of_eq, fun h => h.lt_or_eq'⟩
    split_ifs with h
    · exact val32_of_not_finite (hfin.1 h)
    · exact val32_of_finite (not_le.1 (mt hfin.2 h))
  · split_ifs with hf
    · exact val16_of_not_finite hf
    · exact val16_of_finite (not_le.1 hf)

/-- Settles O27: zero and the overflow by their own lines of `fl32`; below the bound the rounded quotient is nearest among
the multiples of `2 ^ k`, and every magnitude is such a multiple or lies below the binade of `n`. -/
theorem roundingIsToNearestEven : Obligations.RoundingIsToNearestEven := by
  intro n
  have hu : (0 : ℚ) < 2 ^ (-149 : ℤ) := by positivity
  have hbound : 2 ^ 128 - 2 ^ 103 ≤ (n : ℚ) * 2 ^ (-149 : ℤ) ↔ (2 ^ 128 - 2 ^ 103) * 2 ^ 149 ≤ n := by
    have hcast : (((2 ^ 128 - 2 ^ 103) * 2 ^ 149 : Nat) : ℚ) = (2 ^ 128 - 2 ^ 103) * (2 : ℚ) ^ (149 : ℤ) := by
      norm_num
    rw [zpow_neg, ← div_eq_mul_inv, le_div_iff₀ (by positivity), ← hcast, Nat.cast_le]
  unfold roundsTo
  split_ifs with h0 hover
  · obtain rfl : n = 0 := by simpa using h0
    decide
  · exact if_pos (hbound.1 hover)
  · have hn : n < (2 ^ 128 - 2 ^ 103) * 2 ^ 149 := not_le.1 (mt hbound.2 hover)
    have hlt := roundedAbs_lt hn
    have hp : (fl32 n).toNat = roundedAbs n := by
      rw [fl32_of_lt hn, BitVec.toNat_ofNat, Nat.mod_eq_of_lt (by omega)]
    refine ⟨hp ▸ hlt, _, val32_of_lt (hp ▸ hlt), fun q w hq hw => ?_⟩
    obtain rfl := Option.some.inj ((val32_of_lt hq).symm.trans hw)
    rw [abs_units_sub _ _ hu, abs_units_sub _ _ hu, hp, mul_le_mul_iff_left₀ hu, mul_left_inj' hu.ne', Nat.cast_le,
      Nat.cast_inj, ← BitVec.toNat_inj, hp]
    exact roundedAbs_nearest n q.toNat

/-- Settles O28: the order of values is that of their units. -/
theorem lessThanComparesValues : Obligations.LessThanComparesValues := fun _ _ => lt32_iff

/-- Settles O29: each finite constant is a normal pattern with given fields, `BIGGEST_DENORM16` excepted. -/
theorem namedConstantsHaveTheirValues : Obligations.NamedConstantsHaveTheirValues := by
  refine ⟨rfl, rfl, rfl, rfl, rfl, rfl, rfl, rfl, rfl, rfl, rfl, rfl, rfl, rfl, rfl, rfl,
    ?_, ?_, ?_, ?_, ?_, ?_, ?_, ?_⟩
  · rw [val32_of_normal_fields (e := 113) (m := 0) rfl (by decide) (by decide) (by decide)]
    norm_num
  · rw [val32_of_normal_fields (e := 142) (m := 0x7FE000) rfl (by decide) (by decide) (by decide)]
    norm_num
  · rw [val32_of_normal_fields (e := 254) (m := 0x7FFFFF) rfl (by decide) (by decide) (by decide)]
    norm_num
  · rw [val32_of_normal_fields (e := 151) (m := 0) rfl (by decide) (by decide) (by decide)]
    norm_num
  · rw [val32_of_normal_fields (e := 112) (m := 0) rfl (by decide) (by decide) (by decide)]
    norm_num
  · rw [val32_of_normal_fields (e := 103) (m := 0) rfl (by decide) (by decide) (by decide)]
    norm_num
  · rw [val16_of_denormal (by decide), show sign16 biggestDenorm16 = false by decide,
      show mant16 biggestDenorm16 = 1023#10 by decide]
    norm_num
  · rw [val16_of_normal_fields (e := 30) (m := 1023) rfl (by decide) (by decide) (by decide)]
    norm_num

/-- Settles O35: the result is `enc16`, and the count moves only for a draw. -/
theorem encodeAlwaysAnswersAHalf : Obligations.EncodeAlwaysAnswersAHalf := by
  refine ⟨encodedBy_of_decodeOp (op := 0#4) fun q hop => by simp [decodeOp, hop], fun f s => ?_⟩
  refine ⟨enc16 s.params.encOvf (Config.freeHalf s.draws) f, _, exec_eq (.enc16 f) s, fun h => ?_⟩
  exact if_neg (mt encDraws_iff.1 h)

end Sys2Proof.Machine
end

section
/-! PROOFS. The codec (spec/41_codec.md). Both conversions work on the magnitude field alone and OR the sign in last, so each
is a function on numbers: `encMag` and `decMag`. DEC32 keeps the magnitude in units (`magOf_decMag`), and ENC16 gives the
largest binary16 magnitude not above the input's (`le_encMag_iff`); that the one undoes the other follows from these two. -/

namespace Sys2Proof.Machine

open Spec

/-! ## Sign and magnitude of a pattern -/

/-- A sign bit above a magnitude is added by OR. -/
theorem or_mul_two_pow {m n : Nat} (hm : m < 2 ^ n) (b : Nat) : m ||| b * 2 ^ n = b * 2 ^ n + m := by
  rw [Nat.or_comm, Nat.mul_comm, Nat.two_pow_add_eq_or_of_lt hm]

/-- A bit that `m` has not is flipped before or after the OR. -/
theorem or_xor_of_and_eq_zero {w : Nat} {m b : BitVec w} (h : m &&& b = 0#w) (a : BitVec w) :
    m ||| (a ^^^ b) = (m ||| a) ^^^ b := by
  ext i hi
  have hbit : (m[i] && b[i]) = false := by rw [← BitVec.getElem_and, h, BitVec.getElem_zero]
  simp only [BitVec.getElem_or, BitVec.getElem_xor]
  cases hm : m[i]
  · simp
  · simp_all

theorem encSign_toNat (f : Word) : (encSign f).toNat = signBit16 f := by
  have := f.isLt
  rw [encSign, BitVec.extractLsb'_toNat, BitVec.toNat_and, show sign32Mask.toNat = 2 ^ 31 from rfl, Nat.and_two_pow,
    Nat.toNat_testBit, Nat.shiftRight_eq_div_pow, signBit16]
  omega

theorem toNat_or_encSign {m : Half} (hm : m.toNat < 2 ^ 15) (f : Word) :
    (m ||| encSign f).toNat = signBit16 f + m.toNat := by
  rw [BitVec.toNat_or, encSign_toNat]
  exact or_mul_two_pow hm _

theorem ofNat_signBit16 (f : Word) : BitVec.ofNat 16 (signBit16 f) = encSign f := by
  rw [← encSign_toNat, BitVec.ofNat_toNat, BitVec.setWidth_eq]

/-- The magnitude pattern on a port is the operand with its sign cleared. -/
theorem ofNat_abs32 (f : Word) : BitVec.ofNat 32 (abs32 f) = encAbs f := by
  rw [← encAbs_toNat, BitVec.ofNat_toNat, BitVec.setWidth_eq]

@[simp] theorem abs32_encAbs (f : Word) : abs32 (encAbs f) = abs32 f := by
  rw [abs32, encAbs_toNat, Nat.mod_eq_of_lt (abs32_lt f)]

@[simp] theorem encAbs_encAbs (f : Word) : encAbs (encAbs f) = encAbs f := by
  rw [← BitVec.toNat_inj, encAbs_toNat, abs32_encAbs, encAbs_toNat]

@[simp] theorem encSign_encAbs (f : Word) : encSign (encAbs f) = 0#16 := by
  rw [← BitVec.toNat_inj, encSign_toNat, signBit16, encAbs_toNat, Nat.div_eq_of_lt (abs32_lt f)]
  rfl

theorem encAbs_flip (f : Word) : encAbs (f ^^^ 0x80000000#32) = encAbs f := by
  rw [encAbs_eq, encAbs_eq]
  ext i hi
  simp only [BitVec.getElem_and, BitVec.getElem_xor]
  interval_cases i <;> simp

theorem band_flip (f : Word) : band (f ^^^ 0x80000000#32) ↔ band f := by
  rw [← encInBand_iff, ← encInBand_iff, encInBand, encAbs_flip, encInBand]

theorem encSign_flip (f : Word) : encSign (f ^^^ 0x80000000#32) = encSign f ^^^ 0x8000#16 := by
  ext i hi
  simp only [encSign, sign32Mask]
  interval_cases i <;> simp

theorem and_sign16Mask_toNat (h : Half) : (h &&& 0x8000#16).toNat = h.toNat / 2 ^ 15 * 2 ^ 15 := by
  have := h.isLt
  rw [BitVec.toNat_and, show (0x8000#16).toNat = 2 ^ 15 from rfl, Nat.and_two_pow, Nat.toNat_testBit]
  omega

theorem units16_eq (h : Half) :
    units16 h = if sign16 h then -(magOf 10 (abs16 h) : Int) else magOf 10 (abs16 h) := by
  rw [units16, exp16_of_abs, mant16_of_abs]
  rfl

theorem val16_eq_some {h : Half} {v : ℚ} :
    val16 h = some v ↔ abs16 h < 0x7C00 ∧ (units16 h : ℚ) * (2 : ℚ) ^ (-24 : ℤ) = v := by
  by_cases hf : abs16 h < 0x7C00
  · simp [val16_of_finite hf, hf]
  · simp [val16_of_not_finite (not_lt.1 hf), hf]

/-- A finite half is not positive, or its value is its magnitude. -/
theorem val16_nonpos_or_eq {h : Half} {v : ℚ} (hv : val16 h = some v) :
    v ≤ 0 ∨ v = magOf 10 (abs16 h) * (2 : ℚ) ^ (-24 : ℤ) := by
  obtain ⟨-, rfl⟩ := val16_eq_some.1 hv
  rw [units16_eq]
  cases sign16 h
  · exact .inr (by simp)
  · refine .inl (mul_nonpos_of_nonpos_of_nonneg ?_ (by positivity))
    simp

/-- A binary16 unit is 2^125 of binary32. -/
theorem units16_le_units32_iff {p q : Nat} :
    (p : ℚ) * (2 : ℚ) ^ (-24 : ℤ) ≤ q * (2 : ℚ) ^ (-149 : ℤ) ↔ p * 2 ^ 125 ≤ q := by
  have hunit : (2 : ℚ) ^ (-24 : ℤ) = ((2 ^ 125 : Nat) : ℚ) * (2 : ℚ) ^ (-149 : ℤ) := by norm_num
  rw [hunit, ← mul_assoc, mul_le_mul_iff_left₀ (by positivity), ← Nat.cast_mul, Nat.cast_le]

/-- The value of a finite magnitude pattern on a port. -/
theorem val32_abs32 {f : Word} (hf : abs32 f < 0x7F800000) :
    val32 (BitVec.ofNat 32 (abs32 f)) = some ((magOf 23 (abs32 f) : ℚ) * (2 : ℚ) ^ (-149 : ℤ)) := by
  rw [ofNat_abs32, val32_of_lt (by rwa [encAbs_toNat]), encAbs_toNat]

/-- The value of a finite magnitude pattern of binary16. -/
theorem val16_abs16 {h : Half} (hf : abs16 h < 0x7C00) :
    val16 (BitVec.ofNat 16 (abs16 h)) = some ((magOf 10 (abs16 h) : ℚ) * (2 : ℚ) ^ (-24 : ℤ)) := by
  have hnat : (BitVec.ofNat 16 (abs16 h)).toNat = abs16 h := by rw [BitVec.toNat_ofNat]; omega
  have habs : abs16 (BitVec.ofNat 16 (abs16 h)) = abs16 h := by rw [abs16, hnat]; omega
  have hs : sign16 (BitVec.ofNat 16 (abs16 h)) = false := by
    rw [sign16_eq, hnat, decide_eq_false_iff_not]
    omega
  rw [val16_of_finite (by rwa [habs]), units16_eq, hs, habs]
  simp

/-! ## DEC32 on magnitudes (R86, R87) -/

/-- The magnitude field DEC32 gives for the magnitude field `a`. -/
def decMag (a : Nat) : Nat :=
  if 0x7BFF < a then a * 2 ^ 13 + 0x70000000
  else if 0x03FF < a then a * 2 ^ 13 + 0x38000000
  else if a = 0 then 0
  else (Nat.log2 a + 103) * 2 ^ 23 + (a - 2 ^ Nat.log2 a) * 2 ^ (23 - Nat.log2 a)

section DecMag

variable {a : Nat}

theorem decMag_of_not_finite (ha : 0x7BFF < a) : decMag a = a * 2 ^ 13 + 0x70000000 := if_pos ha

theorem decMag_of_normal (hlo : 0x03FF < a) (hhi : a ≤ 0x7BFF) : decMag a = a * 2 ^ 13 + 0x38000000 := by
  rw [decMag, if_neg hhi.not_gt, if_pos hlo]

@[simp] theorem decMag_zero : decMag 0 = 0 := rfl

/-- A denormal magnitude is its highest set bit and a rest. -/
theorem exists_leading_bit (h0 : a ≠ 0) (ha : a ≤ 0x03FF) : ∃ k r, k ≤ 9 ∧ r < 2 ^ k ∧ a = 2 ^ k + r := by
  have hle := Nat.log2_self_le h0
  have hlt := Nat.lt_log2_self (n := a)
  rw [pow_succ] at hlt
  refine ⟨Nat.log2 a, a - 2 ^ Nat.log2 a, ?_, by omega, by omega⟩
  exact Nat.le_of_lt_succ ((Nat.log2_lt h0).2 (by omega))

theorem log2_leading_bit {k r : Nat} (hr : r < 2 ^ k) : Nat.log2 (2 ^ k + r) = k := by
  have : 0 < 2 ^ k := by positivity
  exact (Nat.log2_eq_iff (by omega)).2 ⟨by omega, by rw [pow_succ]; omega⟩

theorem leading_bit_le {k r : Nat} (hk : k ≤ 9) (hr : r < 2 ^ k) : 2 ^ k + r ≤ 0x03FF := by
  have : 2 ^ k ≤ 2 ^ 9 := Nat.pow_le_pow_right (by decide) hk
  omega

/-- The rest, moved up to the top of the mantissa field, fits into it. -/
theorem rest_lt {k r : Nat} (hk : k ≤ 9) (hr : r < 2 ^ k) : r * 2 ^ (23 - k) < 2 ^ 23 :=
  calc r * 2 ^ (23 - k) < 2 ^ k * 2 ^ (23 - k) := by gcongr
    _ = 2 ^ 23 := by rw [← pow_add]; congr 1; omega

theorem decMag_of_denormal {k r : Nat} (hk : k ≤ 9) (hr : r < 2 ^ k) :
    decMag (2 ^ k + r) = (k + 103) * 2 ^ 23 + r * 2 ^ (23 - k) := by
  have hle := leading_bit_le hk hr
  have hpos : 0 < 2 ^ k := by positivity
  rw [decMag, if_neg (by omega), if_neg (by omega), if_neg (by omega), log2_leading_bit hr, Nat.add_sub_cancel_left]

/-- R87: DEC32 keeps the magnitude. A binary16 unit is 2^125 of binary32. -/
theorem magOf_decMag (ha : a ≤ 0x7BFF) : magOf 23 (decMag a) = magOf 10 a * 2 ^ 125 := by
  obtain rfl | h0 := eq_or_ne a 0
  · simp
  obtain hden | hnorm := le_or_gt a 0x03FF
  · obtain ⟨k, r, hk, hr, rfl⟩ := exists_leading_bit h0 hden
    have hpow : (2 : Nat) ^ 23 = 2 ^ k * 2 ^ (23 - k) := by rw [← pow_add]; congr 1; omega
    have hunit : (2 : Nat) ^ 125 = 2 ^ (23 - k) * 2 ^ (k + 102) := by rw [← pow_add]; congr 1; omega
    rw [decMag_of_denormal hk hr, magOf_fields _ (rest_lt hk hr), magUnits_succ, magOf_of_lt (by omega), hunit]
    conv_lhs => rw [hpow, ← Nat.add_mul, Nat.mul_assoc]
  · obtain ⟨e, m, hm, rfl⟩ := exists_fields 10 a
    obtain ⟨e, rfl⟩ : ∃ e', e = e' + 1 := Nat.exists_eq_succ_of_ne_zero (by rintro rfl; omega)
    rw [decMag_of_normal hnorm ha, magOf_fields _ hm, magUnits_succ,
      show ((e + 1) * 2 ^ 10 + m) * 2 ^ 13 + 0x38000000 = (e + 112 + 1) * 2 ^ 23 + m * 2 ^ 13 by ring,
      magOf_fields _ (by omega), magUnits_succ]
    ring

/-- 2^-14, the smallest normal, in both formats. -/
theorem magOf_min16In32 : magOf 23 0x38800000 = magOf 10 0x0400 * 2 ^ 125 :=
  magOf_decMag (a := 0x0400) (by decide)

/-- 65504, the largest finite half, in both formats. -/
theorem magOf_max16In32 : magOf 23 0x477FE000 = magOf 10 0x7BFF * 2 ^ 125 :=
  magOf_decMag (a := 0x7BFF) le_rfl

/-- A finite half stays at or below 65504. -/
theorem decMag_le (ha : a ≤ 0x7BFF) : decMag a ≤ 0x477FE000 := by
  rw [← (magOf_strictMono (w := 23)).le_iff_le, magOf_decMag ha, magOf_max16In32]
  exact Nat.mul_le_mul_right _ (magOf_strictMono.monotone ha)

theorem decMag_lt (ha : a < 2 ^ 15) : decMag a < 2 ^ 31 := by
  obtain hfin | hover := le_or_gt a 0x7BFF
  · exact (decMag_le hfin).trans_lt (by decide)
  · rw [decMag_of_not_finite hover]
    omega

end DecMag

/-! ## The paths of ENC16 in numbers (R82, R83, R84) -/

theorem and_frac32Mask_toNat (x : Word) : (x &&& frac32Mask).toNat = x.toNat % 2 ^ 23 := by
  rw [BitVec.toNat_and]
  exact Nat.and_two_pow_sub_one_eq_mod x.toNat 23

/-- R82's bit-level form is the integer part of the magnitude in units of 2^-24. -/
theorem encDenorm_toNat {x : Word} (hx : x.toNat < 0x38800000) : (encDenorm x).toNat = magOf 23 x.toNat / 2 ^ 125 := by
  obtain ⟨e, m, hm, hxem⟩ := exists_fields 23 x.toNat
  have he : (exp32 x).toNat = e := by rw [exp32_toNat]; omega
  have hmant : (x &&& frac32Mask).toNat = m := by rw [and_frac32Mask_toNat]; omega
  rw [hxem, magOf_fields e hm]
  unfold encDenorm
  cases e with
  | zero =>
    rw [if_pos (BitVec.toNat_inj.1 he), magUnits_zero, Nat.div_eq_of_lt (by omega)]
    rfl
  | succ e =>
    have hexp : exp32 x ≠ 0#8 := fun h0 => by simp [h0] at he
    have hpow : (2 : Nat) ^ 125 = 2 ^ (125 - e) * 2 ^ e := by rw [← pow_add]; congr 1; omega
    have hor : (0x00800000#32 ||| (x &&& frac32Mask)).toNat = 2 ^ 23 + m := by
      rw [BitVec.toNat_or, hmant, Nat.or_comm]
      exact or_mul_two_pow hm 1
    have hlt : (2 ^ 23 + m) / 2 ^ (125 - e) < 2 ^ 16 := by
      have : 2 ^ 14 ≤ 2 ^ (125 - e) := Nat.pow_le_pow_right (by decide) (by omega)
      exact Nat.div_lt_of_lt_mul (by omega)
    rw [if_neg hexp, BitVec.toNat_setWidth, BitVec.toNat_ushiftRight, hor, he, Nat.shiftRight_eq_div_pow,
      show 126 - (e + 1) = 125 - e by omega, Nat.mod_eq_of_lt hlt, magUnits_succ, hpow,
      Nat.mul_div_mul_right _ _ (by positivity)]

theorem encInfNan_toNat (x : Word) : (encInfNan x).toNat = if x.toNat % 2 ^ 23 = 0 then 0x7C00 else 0x7FFF := by
  have hzero : x &&& frac32Mask = 0#32 ↔ x.toNat % 2 ^ 23 = 0 := by
    rw [← BitVec.toNat_inj, and_frac32Mask_toNat]
    rfl
  simp only [encInfNan, ne_eq, hzero, ite_not]
  split <;> rfl

/-- R84's formula, also where `RAW` applies it outside its range. -/
theorem encNormal_eq {x : Word} (hx : 0x38000000 ≤ x.toNat) :
    encNormal x = BitVec.ofNat 16 ((x.toNat - 0x38000000) / 2 ^ 13) := by
  have := x.isLt
  simp only [encNormal, normalDelta, ← BitVec.toNat_inj, BitVec.toNat_setWidth, BitVec.toNat_ushiftRight,
    BitVec.toNat_sub, BitVec.toNat_ofNat, Nat.shiftRight_eq_div_pow]
  omega

/-! ## ENC16 on magnitudes -/

/-- The magnitude field ENC16 gives for the magnitude field `a`; on the overflow band, under `INF`. -/
def encMag (a : Nat) : Nat :=
  if a < 0x38800000 then magOf 23 a / 2 ^ 125
  else if a ≤ 0x477FE000 then (a - 0x38000000) / 2 ^ 13
  else if a ≤ 0x7F800000 then 0x7C00
  else 0x7FFF

section EncMag

variable {a : Nat}

theorem encMag_of_denormal (ha : a < 0x38800000) : encMag a = magOf 23 a / 2 ^ 125 := if_pos ha

theorem encMag_of_normal (hlo : 0x38800000 ≤ a) (hhi : a ≤ 0x477FE000) : encMag a = (a - 0x38000000) / 2 ^ 13 := by
  rw [encMag, if_neg hlo.not_gt, if_pos hhi]

theorem encMag_of_over (hlo : 0x477FE000 < a) (hhi : a ≤ 0x7F800000) : encMag a = 0x7C00 := by
  rw [encMag, if_neg (by omega), if_neg (by omega), if_pos hhi]

theorem encMag_of_nan (ha : 0x7F800000 < a) : encMag a = 0x7FFF := by
  rw [encMag, if_neg (by omega), if_neg (by omega), if_neg (by omega)]

theorem encMag_denormal_le (ha : a < 0x38800000) : encMag a ≤ 0x03FF := by
  have hmag := magOf_strictMono (w := 23) ha
  rw [magOf_min16In32, Nat.mul_comm] at hmag
  rw [encMag_of_denormal ha]
  exact Nat.le_of_lt_succ (Nat.div_lt_of_lt_mul hmag)

/-- On finite inputs up to 65504 the result is finite. -/
theorem encMag_le (ha : a ≤ 0x477FE000) : encMag a ≤ 0x7BFF := by
  obtain hlt | hge := lt_or_ge a 0x38800000
  · exact (encMag_denormal_le hlt).trans (by decide)
  · rw [encMag_of_normal hge ha]
    omega

theorem encMag_lt (a : Nat) : encMag a < 2 ^ 15 := by
  obtain ha | ha | ha : a ≤ 0x477FE000 ∨ (0x477FE000 < a ∧ a ≤ 0x7F800000) ∨ 0x7F800000 < a := by omega
  · exact (encMag_le ha).trans_lt (by decide)
  · rw [encMag_of_over ha.1 ha.2]
    decide
  · rw [encMag_of_nan ha]
    decide

/-- ENC16 rounds toward zero (R88): up to 65504, the halves that do not exceed its result are those of magnitude not above
the input's. -/
theorem le_encMag_iff {k : Nat} (ha : a ≤ 0x477FE000) : k ≤ encMag a ↔ magOf 10 k * 2 ^ 125 ≤ magOf 23 a := by
  have hmono {w : Nat} := magOf_strictMono (w := w)
  obtain hden | hnorm := lt_or_ge a 0x38800000
  · obtain hk | hk := lt_or_ge k 0x0400
    · rw [encMag_of_denormal hden, magOf_of_lt (w := 10) hk, Nat.le_div_iff_mul_le (by positivity)]
    · have hle := encMag_denormal_le hden
      refine iff_of_false (by omega) (not_le.2 ?_)
      calc magOf 23 a < magOf 23 0x38800000 := hmono hden
        _ = magOf 10 0x0400 * 2 ^ 125 := magOf_min16In32
        _ ≤ magOf 10 k * 2 ^ 125 := Nat.mul_le_mul_right _ (hmono.monotone hk)
  · rw [encMag_of_normal hnorm ha]
    obtain hk | ⟨hk, hk'⟩ | hk : k ≤ 0x03FF ∨ (0x03FF < k ∧ k ≤ 0x7BFF) ∨ 0x7BFF < k := by omega
    · refine iff_of_true (by omega) ?_
      calc magOf 10 k * 2 ^ 125 ≤ magOf 10 0x0400 * 2 ^ 125 := Nat.mul_le_mul_right _ (hmono.monotone (by omega))
        _ = magOf 23 0x38800000 := magOf_min16In32.symm
        _ ≤ magOf 23 a := hmono.monotone hnorm
    · rw [← magOf_decMag hk', hmono.le_iff_le, decMag_of_normal hk hk']
      omega
    · refine iff_of_false (by omega) (not_le.2 ?_)
      calc magOf 23 a ≤ magOf 23 0x477FE000 := hmono.monotone ha
        _ = magOf 10 0x7BFF * 2 ^ 125 := magOf_max16In32
        _ < magOf 10 k * 2 ^ 125 := Nat.mul_lt_mul_of_pos_right (hmono hk) (by positivity)

/-- The two conversions on magnitudes (R89): a NaN's payload becomes all ones, and everything else comes back. -/
theorem encMag_decMag (ha : a < 2 ^ 15) : encMag (decMag a) = if 0x7C00 < a then 0x7FFF else a := by
  obtain hfin | hover := le_or_gt a 0x7BFF
  · rw [if_neg (by omega)]
    refine eq_of_forall_le_iff fun k => ?_
    rw [le_encMag_iff (decMag_le hfin), magOf_decMag hfin, Nat.mul_le_mul_right_iff (by positivity),
      magOf_strictMono.le_iff_le]
  · rw [decMag_of_not_finite hover]
    split_ifs with hnan
    · exact encMag_of_nan (by omega)
    · rw [encMag_of_over (by omega) (by omega)]
      omega

end EncMag

/-! ## The result of ENC16 -/

section Enc16

variable {ovf : Config.EncOvf} {d : Half} {f : Word}

/-- On the band ENC16's first two tests fail and its third succeeds. -/
theorem encAbs_tests_of_band (hb : band f) :
    (encAbs f).ult min16In32 = false ∧ max32.ult (encAbs f) = false ∧ max16In32.ult (encAbs f) = true := by
  simpa [encInBand, and_assoc] using (encInBand_iff f).2 hb

/-- ENC16 on each of its paths, the draw excepted, gives a magnitude with the sign ORed in (R81). -/
theorem enc16_toNat (hf : ovf = .inf ∨ ¬ band f) :
    (enc16 ovf d f).toNat = signBit16 f + encMag (abs32 f) := by
  have habs := encAbs_toNat f
  have hlt := abs32_lt f
  have hmag {m : Half} (hm : m.toNat = encMag (abs32 f)) : (m ||| encSign f).toNat = signBit16 f + encMag (abs32 f) := by
    rw [toNat_or_encSign (hm ▸ encMag_lt _), hm]
  simp only [enc16, BitVec.ult, habs, min16In32, max32, max16In32, BitVec.toNat_ofNat, decide_eq_true_iff, Nat.reducePow,
    Nat.reduceMod]
  split_ifs with hden hmax hover
  · refine hmag ?_
    rw [encDenorm_toNat (habs ▸ hden), habs, encMag_of_denormal hden]
  · refine hmag ?_
    rw [encInfNan_toNat, habs]
    split_ifs with hm
    · rw [encMag_of_over (by omega) (by omega)]
    · rw [encMag_of_nan (by omega)]
  · obtain rfl : ovf = .inf := hf.resolve_right (not_not.2 ⟨hover, not_lt.1 hmax⟩)
    exact hmag (encMag_of_over hover (by omega)).symm
  · refine hmag ?_
    rw [encNormal_eq (by omega), habs, encMag_of_normal (by omega) (by omega), BitVec.toNat_ofNat]
    omega

/-- Unless the result is a draw, it is the result for the magnitude with the sign ORed in last (R81). -/
theorem enc16_eq_or_encSign (hf : ¬ (ovf = .any ∧ band f)) : enc16 ovf d f = enc16 ovf d (encAbs f) ||| encSign f := by
  simp only [enc16, encAbs_encAbs, encSign_encAbs]
  split_ifs with hmin hmax hover
  · simp
  · simp
  · cases ovf with
    | inf => simp
    | raw => simp
    | any =>
      refine absurd ⟨rfl, (encInBand_iff f).1 ?_⟩ hf
      simp [encInBand, hmin, hmax, hover]
  · simp

theorem abs16_enc16 (hf : ovf = .inf ∨ ¬ band f) : abs16 (enc16 ovf d f) = encMag (abs32 f) := by
  have := encMag_lt (abs32 f)
  rw [abs16, enc16_toNat hf, signBit16]
  omega

theorem neg16_enc16 (hf : ovf = .inf ∨ ¬ band f) : neg16 (enc16 ovf d f) ↔ neg32 f := by
  have := encMag_lt (abs32 f)
  rw [neg16, neg32, enc16_toNat hf, signBit16]
  omega

theorem not_draw_of_inf_or (hf : ovf = .inf ∨ ¬ band f) : ¬ (ovf = .any ∧ band f) := by
  rintro ⟨rfl, hb⟩
  exact hf.elim nofun (absurd hb)

/-- Flipping the input's sign flips the result's (R81). -/
theorem enc16_flip (hf : ovf = .inf ∨ ¬ band f) :
    enc16 ovf d (f ^^^ 0x80000000#32) = enc16 ovf d f ^^^ 0x8000#16 := by
  have hband : ovf = .inf ∨ ¬ band (encAbs f) := by rwa [band, abs32_encAbs]
  have hmag : enc16 ovf d (encAbs f) &&& 0x8000#16 = 0#16 := by
    have hlt := encMag_lt (abs32 (encAbs f))
    rw [← BitVec.toNat_inj, and_sign16Mask_toNat, enc16_toNat hband, ← encSign_toNat, encSign_encAbs, BitVec.toNat_ofNat]
    omega
  have hdraw := not_draw_of_inf_or hf
  rw [enc16_eq_or_encSign hdraw, enc16_eq_or_encSign (by rwa [band_flip]), encAbs_flip, encSign_flip,
    or_xor_of_and_eq_zero hmag]

theorem enc16_raw (hb : band f) :
    enc16 .raw d f = BitVec.ofNat 16 ((abs32 f - 0x38000000) / 2 ^ 13) ||| BitVec.ofNat 16 (signBit16 f) := by
  obtain ⟨hmin, hmax, hover⟩ := encAbs_tests_of_band hb
  rw [ofNat_signBit16, ← encAbs_toNat, ← encNormal_eq (by rw [encAbs_toNat]; omega)]
  simp [enc16, hmin, hmax, hover]

theorem enc16_any (hb : band f) : enc16 .any d f = d := by
  obtain ⟨hmin, hmax, hover⟩ := encAbs_tests_of_band hb
  simp [enc16, hmin, hmax, hover]

end Enc16

/-! ## The result of DEC32 -/

section Dec32

variable (h : Half)

theorem decDenorm_toNat {x : Word} (hx : x.toNat ≤ 0x03FF) : (decDenorm x).toNat = decMag x.toNat := by
  unfold decDenorm
  split_ifs with h0
  · rw [h0]
    rfl
  · have hne : x.toNat ≠ 0 := fun hz => h0 (BitVec.toNat_inj.1 hz)
    obtain ⟨k, r, hk, hr, hkr⟩ := exists_leading_bit hne hx
    have hrest := rest_lt hk hr
    have hpow : 2 ^ k ≤ 2 ^ 9 := Nat.pow_le_pow_right (by decide) hk
    have hexp : (BitVec.ofNat 32 (k + 103) <<< 23).toNat = (k + 103) * 2 ^ 23 := by
      rw [BitVec.toNat_shiftLeft, BitVec.toNat_ofNat, Nat.shiftLeft_eq]
      omega
    have hbit : (1#32 <<< k).toNat = 2 ^ k := by
      rw [BitVec.toNat_shiftLeft, BitVec.toNat_ofNat, Nat.shiftLeft_eq, Nat.one_mod, Nat.one_mul,
        Nat.mod_eq_of_lt (by omega)]
    have hmant : ((x - 1#32 <<< k) <<< (23 - k)).toNat = r * 2 ^ (23 - k) := by
      rw [BitVec.toNat_shiftLeft, BitVec.toNat_sub_of_le (by rw [BitVec.le_def]; omega), hbit, hkr,
        Nat.add_sub_cancel_left, Nat.shiftLeft_eq, Nat.mod_eq_of_lt (by omega)]
    simp only [hkr, log2_leading_bit hr]
    rw [decMag_of_denormal hk hr, BitVec.toNat_or, hexp, hmant, Nat.or_comm]
    exact or_mul_two_pow hrest _

/-- The sign of the half, moved to bit 31. -/
theorem decSign_toNat : ((h &&& sign16Mask).setWidth 32 <<< 16).toNat = h.toNat / 2 ^ 15 * 2 ^ 31 := by
  have hlt := h.isLt
  rw [BitVec.toNat_shiftLeft, BitVec.toNat_setWidth, sign16Mask, and_sign16Mask_toNat, Nat.shiftLeft_eq]
  omega

/-- The magnitude of the half. -/
theorem decAbs_toNat : ((h &&& 0x7FFF#16).setWidth 32).toNat = abs16 h := by
  have hlt := abs16_lt h
  have hmask : (h &&& 0x7FFF#16).toNat = abs16 h := by
    rw [BitVec.toNat_and]
    exact Nat.and_two_pow_sub_one_eq_mod h.toNat 15
  rw [BitVec.toNat_setWidth, hmask]
  omega

/-- DEC32 maps the magnitude by `decMag` and keeps the sign (R86). -/
theorem dec32_toNat : (dec32 h).toNat = h.toNat / 2 ^ 15 * 2 ^ 31 + decMag (abs16 h) := by
  have hmag := decMag_lt (abs16_lt h)
  have hor {m : Word} (hm : m.toNat = decMag (abs16 h)) :
      (m ||| (h &&& sign16Mask).setWidth 32 <<< 16).toNat = h.toNat / 2 ^ 15 * 2 ^ 31 + decMag (abs16 h) := by
    rw [BitVec.toNat_or, decSign_toNat, hm]
    exact or_mul_two_pow hmag _
  refine hor ?_
  have habs := decAbs_toNat h
  generalize (h &&& 0x7FFF#16).setWidth 32 = x at habs
  simp only [BitVec.ult, habs, biggestNormal16, biggestDenorm16, BitVec.toNat_setWidth, BitVec.toNat_ofNat,
    Nat.reducePow, Nat.reduceMod, decide_eq_true_iff]
  split_ifs with hover hnorm
  · rw [decMag_of_not_finite hover] at hmag ⊢
    rw [BitVec.toNat_add, BitVec.toNat_shiftLeft, habs, Nat.shiftLeft_eq, infDecodeDelta, BitVec.toNat_ofNat]
    omega
  · rw [decMag_of_normal hnorm (not_lt.1 hover)] at hmag ⊢
    rw [BitVec.toNat_add, BitVec.toNat_shiftLeft, habs, Nat.shiftLeft_eq, normalDelta, BitVec.toNat_ofNat]
    omega
  · rw [decDenorm_toNat (by omega), habs]

theorem abs32_dec32 : abs32 (dec32 h) = decMag (abs16 h) := by
  have := decMag_lt (abs16_lt h)
  rw [abs32, dec32_toNat]
  omega

theorem neg32_dec32 : neg32 (dec32 h) ↔ neg16 h := by
  have := decMag_lt (abs16_lt h)
  have := h.isLt
  rw [neg32, dec32_toNat]
  omega

theorem sign32_dec32 : sign32 (dec32 h) = sign16 h := by
  rw [sign32_eq, sign16_eq, decide_eq_decide]
  exact neg32_dec32 h

theorem signBit16_dec32 : signBit16 (dec32 h) = h.toNat / 2 ^ 15 * 2 ^ 15 := by
  have := decMag_lt (abs16_lt h)
  rw [signBit16, dec32_toNat]
  omega

/-- No result of DEC32 lies on the overflow band. -/
theorem not_band_dec32 : ¬ band (dec32 h) := by
  rw [band, abs32_dec32]
  obtain hfin | hover := le_or_gt (abs16 h) 0x7BFF
  · have := decMag_le hfin
    omega
  · rw [decMag_of_not_finite hover]
    omega

theorem inf32_dec32 (hi : abs16 h = 0x7C00) : inf32 (dec32 h) := by
  rw [inf32, abs32_dec32, hi]
  rfl

/-- R87: a finite half keeps its value. -/
theorem units32_dec32 (hf : abs16 h < 0x7C00) : units32 (dec32 h) = units16 h * 2 ^ 125 := by
  rw [units32_eq, units16_eq, sign32_dec32, abs32_dec32, magOf_decMag (by omega)]
  split <;> push_cast <;> ring

theorem abs32_dec32_lt (hf : abs16 h < 0x7C00) : abs32 (dec32 h) < 0x7F800000 := by
  rw [abs32_dec32]
  exact (decMag_le (Nat.le_of_lt_succ hf)).trans_lt (by decide)

theorem val32_dec32 (hn : ¬ nan16 h) : val32 (dec32 h) = val16 h := by
  obtain hf | hi := (not_lt.1 hn).lt_or_eq
  · have hunit : (2 : ℚ) ^ 125 * (2 : ℚ) ^ (-149 : ℤ) = (2 : ℚ) ^ (-24 : ℤ) := by norm_num
    rw [val32_of_finite (abs32_dec32_lt h hf), val16_of_finite hf, units32_dec32 h hf, Int.cast_mul, Int.cast_pow,
      Int.cast_ofNat, mul_assoc, hunit]
  · rw [val32_of_not_finite (inf32_dec32 h hi).ge, val16_of_not_finite hi.ge]

theorem extVal32_dec32 (hn : ¬ nan16 h) : extVal32 (dec32 h) = extVal16 h := by
  obtain hf | hi := (not_lt.1 hn).lt_or_eq
  · rw [extVal32_of_finite (abs32_dec32_lt h hf), extVal16_of_finite hf, units32_dec32 h hf]
  · rw [extVal32_of_inf (inf32_dec32 h hi), extVal16_of_inf hi, sign32_dec32]

/-- The all-ones NaN of the sign of `h`. -/
theorem nanOfSign_toNat : (0x7FFF#16 ||| (h &&& 0x8000#16)).toNat = h.toNat / 2 ^ 15 * 2 ^ 15 + 0x7FFF := by
  rw [BitVec.toNat_or, and_sign16Mask_toNat]
  exact or_mul_two_pow (by decide) _

/-- R89: ENC16 undoes DEC32, except that a NaN's payload becomes all ones. -/
theorem enc16_dec32 (ovf : Config.EncOvf) (d : Half) :
    enc16 ovf d (dec32 h) = if nan16 h then 0x7FFF#16 ||| (h &&& 0x8000#16) else h := by
  have henc := enc16_toNat (ovf := ovf) (d := d) (.inr (not_band_dec32 h))
  rw [abs32_dec32, encMag_decMag (abs16_lt h), signBit16_dec32] at henc
  rw [← BitVec.toNat_inj, henc]
  split_ifs
  · exact (nanOfSign_toNat h).symm
  · rw [abs16]
    omega

theorem enc16_dec32_eq_self_iff {ovf : Config.EncOvf} {d : Half} :
    enc16 ovf d (dec32 h) = h ↔ ¬ nan16 h ∨ h = 0x7FFF#16 ∨ h = 0xFFFF#16 := by
  have := h.isLt
  rw [enc16_dec32]
  split_ifs with hn
  · simp only [hn, not_true_eq_false, false_or, ← BitVec.toNat_inj, nanOfSign_toNat, BitVec.toNat_ofNat]
    omega
  · simp [hn]

/-- What DEC32 after ENC16 fixes is DEC32 of what ENC16 after DEC32 fixes. -/
theorem dec32_enc16_eq_self_iff {ovf : Config.EncOvf} {d : Half} {f : Word} :
    dec32 (enc16 ovf d f) = f ↔ ∃ h, enc16 ovf d (dec32 h) = h ∧ dec32 h = f := by
  refine ⟨fun hf => ⟨_, congrArg _ hf, hf⟩, ?_⟩
  rintro ⟨h, hh, rfl⟩
  rw [hh]

end Dec32

/-- The two zeros. -/
theorem eq_zero_of_abs32 {f : Word} (hf : abs32 f = 0) : f = 0x00000000#32 ∨ f = 0x80000000#32 := by
  have := f.isLt
  rw [abs32] at hf
  simp only [← BitVec.toNat_inj, BitVec.toNat_ofNat]
  omega

/-- The patterns equal to some binary16 value are the results of DEC32 for the non-NaNs (R91). -/
theorem isHalfValue_iff {f : Word} : isHalfValue f ↔ ∃ h, ¬ nan16 h ∧ dec32 h = f := by
  constructor
  · rintro (hinf | ⟨v, k, hf, hk⟩)
    · obtain hs | hs := Bool.eq_false_or_eq_true (sign32 f)
      · exact ⟨0xFC00#16, by decide, (eq_negInf32.2 ⟨hinf, hs⟩).symm⟩
      · exact ⟨0x7C00#16, by decide, (eq_posInf32.2 ⟨hinf, hs⟩).symm⟩
    · have hnan : ¬ nan16 k := (val16_eq_some.1 hk).1.not_gt
      rw [← val32_dec32 k hnan, val32_eq_some] at hk
      obtain ⟨-, hku⟩ := hk
      obtain ⟨-, hfu⟩ := val32_eq_some.1 hf
      have hu : units32 (dec32 k) = units32 f :=
        Int.cast_injective (mul_right_cancel₀ (by positivity) (hku.trans hfu.symm))
      obtain ⟨-, hf0⟩ | heq := units32_eq_iff.1 hu
      · obtain rfl | rfl := eq_zero_of_abs32 hf0
        · exact ⟨0x0000#16, by decide, by decide⟩
        · exact ⟨0x8000#16, by decide, by decide⟩
      · exact ⟨k, hnan, heq⟩
  · rintro ⟨h, hn, rfl⟩
    obtain hf | hi := (not_lt.1 hn).lt_or_eq
    · exact .inr ⟨_, h, (val32_dec32 h hn).trans (val16_of_finite hf), val16_of_finite hf⟩
    · exact .inl (inf32_dec32 h hi)

theorem halfOf_eq_lowHalf (x : Word) : halfOf x = lowHalf x := by
  rw [← BitVec.toNat_inj, halfOf_toNat, lowHalf, BitVec.toNat_ofNat]
  omega

/-! ## The answers -/

theorem exec_dec32 (h : Half) (s : State) : exec (.dec32 h) s = .next (answered s (dec32 h)) := rfl

theorem exec_isnan16 (h : Half) (s : State) : exec (.isnan16 h) s = .next (answeredBool s (isNaN16 h)) := rfl

/-- Unless it draws, ENC16 answers its result and changes nothing else. -/
theorem exec_enc16 {f : Word} {s : State} (hf : ¬ (s.params.encOvf = .any ∧ band f)) : exec (.enc16 f) s =
    .next (answered s ((enc16 s.params.encOvf (Config.freeHalf s.draws) f).setWidth 32)) := by
  have hd : instrDraws s.params (.enc16 f) = false := Bool.eq_false_iff.2 (mt encDraws_iff.1 hf)
  rw [exec_eq, hd]
  rfl

/-- The answer by `encMag`, on every path but `RAW`'s and `ANY`'s on the band. -/
theorem exec_enc16_encMag {f : Word} {s : State} (hf : s.params.encOvf = .inf ∨ ¬ band f) :
    exec (.enc16 f) s = .next (answered s (BitVec.ofNat 32 (encMag (abs32 f) + signBit16 f))) := by
  rw [exec_enc16 (not_draw_of_inf_or hf), ← BitVec.ofNat_toNat, enc16_toNat hf, Nat.add_comm]

/-! ## The statements -/

/-- Settles O30: the normal path of `encMag`. -/
theorem encodeNormalRange : Obligations.EncodeNormalRange := by
  intro f s hlo hhi
  rw [← encMag_of_normal hlo hhi]
  refine ⟨exec_enc16_encMag (.inr fun hb => hb.1.not_ge hhi), ?_, encMag_le hhi⟩
  rw [encMag_of_normal hlo hhi]
  omega

/-- Settles O31: the denormal path of `encMag`; in units, the integer part is the quotient by 2^125. -/
theorem encodeDenormalRange : Obligations.EncodeDenormalRange := by
  intro f s hf
  have hfloor : ⌊(magOf 23 (abs32 f) : ℚ) * (2 : ℚ) ^ (-149 : ℤ) * 2 ^ 24⌋ = (encMag (abs32 f) : ℤ) := by
    have hunit : (2 : ℚ) ^ (-149 : ℤ) * 2 ^ 24 = ((2 ^ 125 : Nat) : ℚ)⁻¹ := by norm_num
    rw [mul_assoc, hunit, ← div_eq_mul_inv, Rat.floor_natCast_div_natCast, encMag_of_denormal hf]
    rfl
  have hle := encMag_denormal_le hf
  refine ⟨_, val32_abs32 (by omega), ?_⟩
  rw [hfloor]
  exact ⟨by omega, by omega, exec_enc16_encMag (.inr fun hb => by omega)⟩

/-- Settles O32: the two cases of `encMag` above the finite magnitudes. -/
theorem encodeInfinitiesAndNaNs : Obligations.EncodeInfinitiesAndNaNs := by
  refine fun f s => ⟨fun hi => ?_, fun hn => ?_⟩
  · rw [← encMag_of_over (a := abs32 f) (by omega) hi.le]
    exact exec_enc16_encMag (.inr fun hb => by omega)
  · rw [← encMag_of_nan hn]
    exact exec_enc16_encMag (.inr fun hb => by omega)

/-- Settles O33: `INF` by `encMag`, `RAW` by R84's formula, and `ANY` by the draw itself. -/
theorem encodeOverflowBand : Obligations.EncodeOverflowBand := by
  refine fun f s hb => ⟨fun hp => ?_, fun hp => ?_, fun hp => ?_⟩
  · rw [← encMag_of_over hb.1 (hb.2.trans (by decide))]
    exact exec_enc16_encMag (.inl hp)
  · rw [exec_enc16 (by simp [hp]), hp, enc16_raw hb]
  · have hd : instrDraws s.params (.enc16 f) = true := encDraws_iff.2 ⟨hp, hb⟩
    rw [exec_eq, hd, resultOf, hp, enc16_any hb]
    rfl

/-- Settles O34: every path's magnitude depends on the input's magnitude alone. -/
theorem encodeSignIsOredInLast : Obligations.EncodeSignIsOredInLast := by
  refine fun f s => ⟨fun hf => ?_, fun hf => ?_⟩
  · refine ⟨_, ?_, by rw [exec_enc16 hf, enc16_eq_or_encSign hf, ofNat_signBit16]⟩
    rw [ofNat_abs32, exec_enc16 (by rwa [band, abs32_encAbs])]
  · have hdraw := not_draw_of_inf_or hf
    exact ⟨_, exec_enc16 hdraw, by rw [exec_enc16 (by rwa [band_flip]), enc16_flip hf]⟩

/-- Settles O36, by `le_encMag_iff`, and a negative half is below any magnitude. -/
theorem encodeRoundsTowardZero : Obligations.EncodeRoundsTowardZero := by
  intro f s hf
  have hband : s.params.encOvf = .inf ∨ ¬ band f := .inr fun hb => hb.1.not_ge hf
  have habs := abs16_enc16 (d := Config.freeHalf s.draws) hband
  have hle := encMag_le hf
  refine ⟨_, _, _, exec_enc16 (not_draw_of_inf_or hband), neg16_enc16 hband, val32_abs32 (by omega),
    val16_abs16 (by omega), ?_, fun k w hk hw => ?_⟩
  · rw [habs, units16_le_units32_iff]
    exact (le_encMag_iff hf).1 le_rfl
  · obtain hneg | rfl := val16_nonpos_or_eq hk
    · exact hneg.trans (by positivity)
    · rw [units16_le_units32_iff, ← le_encMag_iff hf] at hw
      rw [habs]
      gcongr
      exact magOf_strictMono.monotone hw

/-- Settles O37: R86's paths are those of `decMag`. -/
theorem decodeResultByRange : Obligations.DecodeResultByRange := by
  refine ⟨encodedBy_of_decodeOp (op := 1#4) fun q hop => by simp [decodeOp, hop, halfOf_eq_lowHalf], fun h s => ?_⟩
  show exec (.dec32 h) s = .next (answered s (BitVec.ofNat 32 (h.toNat / 2 ^ 15 * 2 ^ 31 + decMag (abs16 h))))
  rw [exec_dec32, ← dec32_toNat, BitVec.ofNat_toNat, BitVec.setWidth_eq]

/-- Settles O38: in units the magnitude is kept (`magOf_decMag`); a denormal's pattern is a case of `decMag`. -/
theorem decodeIsExact : Obligations.DecodeIsExact := by
  refine fun h s => ⟨dec32 h, exec_dec32 h s, neg32_dec32 h, fun hn => ⟨val32_dec32 h hn, extVal32_dec32 h hn⟩,
    inf32_dec32 h, fun hn => ?_, fun h0 => ?_, fun k hk hlo hhi => ?_⟩
  · have habs : abs16 h = h.toNat % 2 ^ 15 := rfl
    rw [abs32_dec32, decMag_of_not_finite (by omega)]
    omega
  · rw [abs32_dec32, h0, decMag_zero]
  · obtain ⟨r, hr⟩ := Nat.exists_eq_add_of_le hlo
    rw [hr, pow_succ] at hhi
    rw [abs32_dec32, hr, decMag_of_denormal hk (by omega), Nat.add_sub_cancel_left]

/-- Settles O39, by `enc16_dec32`. -/
theorem encodeOfDecodeIsTheIdentity : Obligations.EncodeOfDecodeIsTheIdentity := by
  intro h s s'
  have henc := exec_enc16 (s := s') fun hf => not_band_dec32 h hf.2
  rw [enc16_dec32] at henc
  exact ⟨dec32 h, exec_dec32 h s, fun hn => by rw [henc, if_neg hn], fun hn => by rw [henc, if_pos hn]⟩

/-- Settles O40: what DEC32 after ENC16 fixes is DEC32 of what ENC16 after DEC32 fixes. -/
theorem decodeOfEncodeFixesHalfValues : Obligations.DecodeOfEncodeFixesHalfValues := by
  intro f s
  refine ⟨enc16 s.params.encOvf (Config.freeHalf s.draws) f, _, _, exec_eq (.enc16 f) s, exec_dec32 _, ?_⟩
  rw [dec32_enc16_eq_self_iff]
  simp only [enc16_dec32_eq_self_iff, or_and_right, exists_or, exists_eq_left, ← isHalfValue_iff, eq_comm (a := f),
    show dec32 0x7FFF#16 = 0x7FFFE000#32 by decide, show dec32 0xFFFF#16 = 0xFFFFE000#32 by decide]

/-- Settles O41: the mask test is the class NaN, by its fields. -/
theorem naNTestResult : Obligations.NaNTestResult := by
  refine ⟨encodedBy_of_decodeOp (op := 2#4) fun q hop => by simp [decodeOp, hop, halfOf_eq_lowHalf], fun h s => ?_⟩
  refine ⟨isNaN16 h, exec_isnan16 h s, ?_⟩
  rw [isNaN16_iff, ← classify16_eq_nan, classify16, classify_eq_nan (by decide), exp16_toNat, mant16_toNat]

end Sys2Proof.Machine
end

section
/-! PROOFS. The comparators (spec/42_compare.md). Each is its special cases followed by a final test, so its result is the
verdict of R100 or R108 (`special32_getD_iff`, `special16_getD_iff`) over what the final test says in the rules' own terms:
the distance in closed form (`dist32_eq`, `dist16_eq`), the tolerance (`within_iff`), or the values (`epsTest_iff`). -/

namespace Sys2Proof.Machine

open Spec

/-! ## Encoding -/

theorem withMode_of_modeBits {q : Request} {m : DenormMode} (hm : modeBits q = m.code.toNat)
    (build : DenormMode → Instr) : withMode q build = .op (build m) := by
  rw [withMode, Request.mode_eq_iff.2 hm, DenormMode.ofCode_code]

/-- The encoding clause of an operation that reads the mode, from its arm of the operation map. -/
theorem encodedWithMode_of_decodeOp {op : BitVec 4} {build : DenormMode → Request → Instr}
    (h : ∀ q : Request, q.op = op → decodeOp q = withMode q fun m => build m q) :
    encodedWithMode op.toNat build := by
  intro q hr ho
  rw [decode_of_rsvBits hr, h q (Request.op_eq_iff.2 ho)]
  refine ⟨fun hm => withMode_of_modeBits (m := .any) hm _, fun hm => withMode_of_modeBits (m := .preserve) hm _,
    fun hm => withMode_of_modeBits (m := .flushToZero) hm _, fun hm => ?_⟩
  have hcode : q.mode = 3#2 := Request.mode_eq_iff.2 hm
  rw [withMode, DenormMode.ofCode_eq_none.2 hcode]

/-- The fields of a control byte written as `16 * m + op`. -/
theorem ctl_fields {ctl m op : Nat} {a b c : Word} (h : ctl = 16 * m + op) (hm : m < 4) (hop : op < 16) :
    let q : Request := ⟨BitVec.ofNat 8 ctl, a, b, c⟩
    rsvBits q = 0 ∧ opBits q = op ∧ modeBits q = m := by
  simp only [rsvBits, opBits, modeBits, BitVec.toNat_ofNat]
  omega

theorem s32_eq_signed (c : Word) : s32 c = signed c := by
  rw [s32, signed, BitVec.toInt_eq_toNat_cond]
  split_ifs <;> omega

/-! ## Distances -/

/-- A wrapped difference is the shorter way round the circle of patterns. -/
theorem wrapDist_sub {w : Nat} (s r : BitVec (w + 1)) :
    wrapDist (s - r) =
      min ((s.toNat : Int) - r.toNat).natAbs (2 ^ (w + 1) - ((s.toNat : Int) - r.toNat).natAbs) := by
  have hs := s.isLt
  have hr := r.isLt
  have hw : 2 ^ (w + 1) = 2 * 2 ^ w := by ring
  have hd : (s - r).toNat = if r.toNat ≤ s.toNat then s.toNat - r.toNat else 2 ^ (w + 1) - (r.toNat - s.toNat) := by
    split_ifs with hle
    · exact BitVec.toNat_sub_of_le hle
    · exact BitVec.toNat_sub_of_lt (not_le.1 hle)
  rw [wrapDist, BitVec.msb_eq_decide, hd, Nat.add_sub_cancel]
  simp only [decide_eq_true_iff]
  split_ifs <;> omega

theorem natAbs_sub_comm (a b : Int) : (a - b).natAbs = (b - a).natAbs := by
  rw [← Int.natAbs_neg, Int.neg_sub]

/-- R102: the distance is the closed form R102 derives. -/
theorem dist32_eq (d : Config.Ulp32Diff) (s r : Word) : dist32 d s r = ulpDist32 d s r := by
  have := s.isLt
  have := r.isLt
  simp only [dist32, Int.abs_eq_natAbs, abs32]
  cases d with
  | wrap32 =>
    simp only [ulpDist32, wrapDist_sub]
    split_ifs <;> omega
  | exact =>
    simp only [ulpDist32, BitVec.toInt_eq_toNat_cond]
    split_ifs <;> omega

theorem dist16_eq (d : Config.Ulp16Diff) (s r : Half) : dist16 d s r = ulpDist16 d s r := by
  have := s.isLt
  have := r.isLt
  simp only [dist16, Int.abs_eq_natAbs, abs16]
  cases d with
  | wrap16 =>
    simp only [ulpDist16, wrapDist_sub]
    split_ifs <;> omega
  | unsigned =>
    simp only [ulpDist16]
    split_ifs <;> omega
  | exact =>
    simp only [ulpDist16, BitVec.toInt_eq_toNat_cond]
    split_ifs <;> omega

theorem ulpDist32_comm (d : Config.Ulp32Diff) (s r : Word) : ulpDist32 d s r = ulpDist32 d r s := by
  cases d with
  | wrap32 => rw [ulpDist32, wrapDist_sub, natAbs_sub_comm, ← wrapDist_sub, ulpDist32]
  | exact => exact natAbs_sub_comm _ _

theorem ulpDist16_comm (d : Config.Ulp16Diff) (s r : Half) : ulpDist16 d s r = ulpDist16 d r s := by
  cases d with
  | wrap16 => rw [ulpDist16, wrapDist_sub, natAbs_sub_comm, ← wrapDist_sub, ulpDist16]
  | unsigned => exact natAbs_sub_comm _ _
  | exact => exact natAbs_sub_comm _ _

/-- Neighbours of one sign are at distance one, however it is computed. -/
theorem ulpDist16_succ (d : Config.Ulp16Diff) {h : Half} (hs : neg16 h ↔ neg16 (h + 1#16)) :
    ulpDist16 d h (h + 1#16) = 1 := by
  have := h.isLt
  have hnext : (h + 1#16).toNat = (h.toNat + 1) % 2 ^ 16 := BitVec.toNat_add ..
  have hsign : h.toNat / 2 ^ 15 = (h + 1#16).toNat / 2 ^ 15 := by
    simp only [neg16] at hs
    omega
  have hd := dist16_eq d h (h + 1#16)
  rw [dist16, if_pos hsign, Int.abs_eq_natAbs] at hd
  omega

/-! ## The tolerance test (R103) -/

theorem within_iff {t : Config.TolCmp} {dist : Nat} {tol : Int} : within t dist tol ↔ tolOk t dist tol = true := by
  cases t <;> simp [within, tolOk]

/-- The settings of R103 differ at negative tolerances only. -/
theorem tolOk_natCast (t : Config.TolCmp) (dist : Nat) {tol : Nat} (h : tol < 2 ^ 32) :
    tolOk t dist tol = decide (dist ≤ tol) := by
  cases t with
  | math => simp [tolOk]
  | ucast =>
    have hmod : (tol : Int) % 2 ^ 32 = tol := by omega
    simp only [tolOk, hmod, Nat.cast_le]

/-! ## Verdicts -/

/-- R100: steps 1 to 3, then the final test. -/
theorem special32_getD_iff {m : DenormMode} {s r : Word} {final : Bool} :
    (special32 m s r).getD final = true ↔ verdict32 m s r (final = true) := by
  have hsign : sign32 s = sign32 r ↔ (neg32 s ↔ neg32 r) := by
    rw [← sign32_iff, ← sign32_iff, Bool.eq_iff_iff]
  rw [verdict32, ← valEq32_iff, ← hsign]
  simp only [← isNaN32_iff, ← isDenormal32_iff, ← isZero32_iff]
  cases h : special32 m s r with
  | none =>
    obtain ⟨heq, hnan, hden⟩ := special32_eq_none.1 h
    simp only [heq, hnan]
    tauto
  | some b =>
    obtain ⟨heq, rfl⟩ | ⟨heq, hnan, rfl⟩ | ⟨heq, hnan, hm, hr, hs, hss, rfl⟩ := special32_eq_some h
    · simp [heq]
    · simp [heq, hnan]
    · simp [hnan, hm, hr, hs, hss]

theorem special16_getD_iff {s r : Half} {final : Bool} :
    (special16 s r).getD final = true ↔ verdict16 s r (final = true) := by
  rw [verdict16]
  simp only [← isNaN16_iff]
  cases h : special16 s r with
  | none =>
    obtain ⟨hne, hnan⟩ := special16_eq_none.1 h
    simp [hne, hnan]
  | some b =>
    obtain ⟨heq, rfl⟩ | ⟨hne, hnan, rfl⟩ := special16_eq_some h
    · simp [heq]
    · simp [hne, hnan]

/-! ## The epsilon test (R104) -/

theorem fl32_le (n : Nat) : (fl32 n).toNat ≤ 0x7F800000 := by
  obtain hover | hlt := le_or_gt ((2 ^ 128 - 2 ^ 103) * 2 ^ 149) n
  · rw [fl32, if_pos hover]
    decide
  · have := roundedAbs_lt hlt
    rw [fl32_of_lt hlt, BitVec.toNat_ofNat]
    omega

/-- Two finite patterns in order of their units. -/
theorem exists_fin_lt_iff {p q : Word} :
    (∃ u v, extVal32 p = some (.fin u) ∧ extVal32 q = some (.fin v) ∧ u < v) ↔
      abs32 p < 0x7F800000 ∧ abs32 q < 0x7F800000 ∧ units32 p < units32 q := by
  simp only [extVal32_eq_fin]
  constructor
  · rintro ⟨_, _, ⟨hp, rfl⟩, ⟨hq, rfl⟩, h⟩
    exact ⟨hp, hq, h⟩
  · exact fun ⟨hp, hq, h⟩ => ⟨_, _, ⟨hp, rfl⟩, ⟨hq, rfl⟩, h⟩

/-- A non-negative pattern is less than another exactly when the other is non-negative too and greater as a number. -/
theorem lt32_iff_of_le {p q : Word} (hp : p.toNat ≤ 0x7F800000) :
    lt32 p q = true ↔ ¬ nan32 q ∧ ¬ neg32 q ∧ p.toNat < q.toNat := by
  have hsign : sign32 p = false := by rw [sign32_eq, decide_eq_false_iff_not]; omega
  have hmag : magOf 23 (abs32 p) < magOf 23 (abs32 q) ↔ abs32 p < abs32 q := magOf_strictMono.lt_iff_lt
  have hunits : units32 p < units32 q ↔ ¬ neg32 q ∧ abs32 p < abs32 q := by
    rw [units32_eq, units32_eq, hsign, ← sign32_iff]
    cases sign32 q with
    | false => simpa using hmag
    | true => simp
  have := q.isLt
  rw [lt32_iff, exists_val32_lt_iff, exists_fin_lt_iff, hunits]
  clear hunits hmag
  simp only [ne_eq, ← BitVec.toNat_inj, BitVec.toNat_ofNat, nan32, neg32, abs32]
  omega

/-- A number of units is less than a pattern's value. -/
theorem extLt_fin_iff {d : Int} {q : Word} :
    extLt (some (.fin d)) (extVal32 q) = true ↔
      q = 0x7F800000#32 ∨ ∃ v, val32 q = some v ∧ (d : ℚ) * (2 : ℚ) ^ (-149 : ℤ) < v := by
  have hu : (0 : ℚ) < 2 ^ (-149 : ℤ) := by positivity
  rw [eq_posInf32]
  obtain h | h | h := lt_trichotomy (abs32 q) 0x7F800000
  · rw [extVal32_of_finite h, val32_of_finite h]
    simp only [extLt, ExtVal.lt, decide_eq_true_iff, inf32, h.ne, false_and, false_or, Option.some.injEq,
      exists_eq_left', mul_lt_mul_iff_left₀ hu, Int.cast_lt]
  · rw [extVal32_of_inf h, val32_of_not_finite h.ge]
    cases sign32 q <;> simp [extLt, ExtVal.lt, inf32, h]
  · simp [extVal32_of_nan h, val32_of_not_finite h.le, extLt, inf32, h.ne']

/-- The final comparison of R104, on the distance of two finite values in units. -/
def epsOk (e : Config.EpsSub) (d : Nat) (eps : Word) : Bool :=
  match e with
  | .rne32 => lt32 (fl32 d) eps
  | .exact => extLt (some (.fin d)) (extVal32 eps)

theorem epsOk_iff {e : Config.EpsSub} {d : Nat} {eps : Word} :
    epsOk e d eps = true ↔ epsPasses e ((d : ℚ) * (2 : ℚ) ^ (-149 : ℤ)) eps := by
  cases e with
  | rne32 =>
    have hunit : (d : ℚ) * (2 : ℚ) ^ (-149 : ℤ) * 2 ^ 149 = d := by
      rw [mul_assoc]
      norm_num
    simp only [epsOk, epsPasses, hunit, Nat.cast_inj, exists_eq_left]
    exact lt32_iff_of_le (fl32_le d)
  | exact => exact extLt_fin_iff

theorem epsPasses_not_nan {e : Config.EpsSub} {d : ℚ} {eps : Word} (h : epsPasses e d eps) : ¬ nan32 eps := by
  cases e with
  | rne32 =>
    obtain ⟨-, -, hn, -⟩ := h
    exact hn
  | exact =>
    obtain rfl | ⟨v, hv, -⟩ := h
    · decide
    · exact (val32_eq_some.1 hv).1.not_gt

theorem abs_val_sub (a b : Int) : |(a : ℚ) * (2 : ℚ) ^ (-149 : ℤ) - (b : ℚ) * (2 : ℚ) ^ (-149 : ℤ)| =
    ((a - b).natAbs : ℚ) * (2 : ℚ) ^ (-149 : ℤ) := by
  rw [← sub_mul, abs_mul, abs_of_pos (by positivity : (0 : ℚ) < 2 ^ (-149 : ℤ)), Nat.cast_natAbs, Int.cast_abs,
    Int.cast_sub]

theorem epsTest_eq (e : Config.EpsSub) (s r eps : Word) : Machine.epsTest e s r eps =
    if isNaN32 s || isNaN32 r || isNaN32 eps then false
    else if isInf32 s || isInf32 r then false
    else epsOk e (units32 s - units32 r).natAbs eps := rfl

theorem epsTest_iff {e : Config.EpsSub} {s r eps : Word} :
    Machine.epsTest e s r eps = true ↔ Spec.epsTest e s r eps := by
  rw [epsTest_eq, Spec.epsTest]
  simp only [Bool.or_eq_true, isNaN32_iff, isInf32_iff, val32_eq_some]
  split_ifs with hn hi
  · simp only [false_iff]
    rintro ⟨vs, vr, ⟨hs, -⟩, ⟨hr, -⟩, h⟩
    have := epsPasses_not_nan h
    omega
  · simp only [false_iff]
    rintro ⟨vs, vr, ⟨hs, -⟩, ⟨hr, -⟩, -⟩
    omega
  · rw [epsOk_iff, ← abs_val_sub]
    constructor
    · exact fun h => ⟨_, _, ⟨by omega, rfl⟩, ⟨by omega, rfl⟩, h⟩
    · rintro ⟨vs, vr, ⟨-, rfl⟩, ⟨-, rfl⟩, h⟩
      exact h

theorem epsTest_comm (e : Config.EpsSub) (s r eps : Word) :
    Machine.epsTest e s r eps = Machine.epsTest e r s eps := by
  have himp {s r : Word} : Spec.epsTest e s r eps → Spec.epsTest e r s eps :=
    fun ⟨vs, vr, hs, hr, h⟩ => ⟨vr, vs, hr, hs, abs_sub_comm vs vr ▸ h⟩
  rw [Bool.eq_iff_iff, epsTest_iff, epsTest_iff]
  exact ⟨himp, himp⟩

/-- No distance is below a zero or negative epsilon. -/
theorem not_epsPasses {e : Config.EpsSub} {d : ℚ} {eps : Word} (hd : 0 ≤ d) (h : abs32 eps = 0 ∨ neg32 eps) :
    ¬ epsPasses e d eps := by
  cases e with
  | rne32 =>
    rintro ⟨n, -, -, hneg, hlt⟩
    rw [abs32] at h
    omega
  | exact =>
    rintro (rfl | ⟨v, hv, hlt⟩)
    · exact absurd h (by decide)
    · obtain ⟨-, rfl⟩ := val32_eq_some.1 hv
      have hunits : units32 eps ≤ 0 := by
        rw [units32_eq]
        obtain h0 | hneg := h
        · simp [h0]
        · simp [(sign32_iff eps).2 hneg]
      have : (units32 eps : ℚ) * (2 : ℚ) ^ (-149 : ℤ) ≤ 0 :=
        mul_nonpos_of_nonpos_of_nonneg (Int.cast_nonpos.2 hunits) (by positivity)
      exact absurd (hd.trans_lt hlt) this.not_gt

theorem epsTest_of_nonpos {e : Config.EpsSub} {s r eps : Word} (h : abs32 eps = 0 ∨ neg32 eps) :
    Machine.epsTest e s r eps = false := by
  rw [← Bool.not_eq_true, epsTest_iff]
  rintro ⟨vs, vr, -, -, hpass⟩
  exact not_epsPasses (abs_nonneg _) h hpass

/-! ## The comparators -/

theorem cmpUlp32_iff {p : Config.Params} {m : DenormMode} {s r : Word} {tol : Int} :
    cmpUlp32 p m s r tol = true ↔ verdict32 m s r (within p.tolCmp (dist32 p.ulp32 s r) tol) := by
  rw [cmpUlp32, special32_getD_iff, dist32_eq, within_iff]

theorem cmpEps32_iff {p : Config.Params} {m : DenormMode} {s r eps : Word} :
    cmpEps32 p m s r eps = true ↔ verdict32 m s r (Spec.epsTest p.epsSub s r eps) := by
  rw [cmpEps32, special32_getD_iff, epsTest_iff]

theorem cmpUlp16_iff {p : Config.Params} {s r : Half} {tol : Int} :
    cmpUlp16 p s r tol = true ↔ verdict16 s r (within p.tolCmp (dist16 p.ulp16 s r) tol) := by
  rw [cmpUlp16, special16_getD_iff, dist16_eq, within_iff]

theorem cmpEps16_iff {p : Config.Params} {s r : Half} {eps : Word} :
    cmpEps16 p s r eps = true ↔ verdict16 s r (Spec.epsTest p.epsSub (dec32 s) (dec32 r) eps) := by
  rw [cmpEps16, special16_getD_iff, epsTest_iff]

section Exec

variable (st : State) (m : DenormMode)

theorem exec_cmpulp32 (s r tol : Word) :
    exec (.cmpulp32 m s r tol) st = .next (answeredBool st (cmpUlp32 st.params m s r (signed tol))) := by
  rw [← s32_eq_signed]
  rfl

theorem exec_cmpeps32 (s r eps : Word) :
    exec (.cmpeps32 m s r eps) st = .next (answeredBool st (cmpEps32 st.params m s r eps)) := rfl

theorem exec_cmprel32 (s r relexp : Word) :
    exec (.cmprel32 m s r relexp) st = .next (answeredBool st (cmpUlp32 st.params m s r (23 - signed relexp))) := by
  rw [← s32_eq_signed]
  rfl

theorem exec_cmpulp16 (s r : Half) (tol : Word) :
    exec (.cmpulp16 s r tol) st = .next (answeredBool st (cmpUlp16 st.params s r (signed tol))) := by
  rw [← s32_eq_signed]
  rfl

theorem exec_cmpeps16 (s r : Half) (eps : Word) :
    exec (.cmpeps16 s r eps) st = .next (answeredBool st (cmpEps16 st.params s r eps)) := rfl

theorem exec_cmprel16 (s r : Half) (relexp : Word) :
    exec (.cmprel16 s r relexp) st = .next (answeredBool st (cmpUlp16 st.params s r (10 - signed relexp))) := by
  rw [← s32_eq_signed]
  rfl

end Exec

/-! ## The special cases, and the final test at a small tolerance -/

theorem special32_of_nan {m : DenormMode} {s r : Word} (hs : nan32 s) : special32 m s r = some (isNaN32 r) := by
  have heq : ¬ valEq32 s r = true := fun h => (valEq32_iff.1 h).1 hs
  rw [special32, if_neg heq, if_pos ((isNaN32_iff s).2 hs)]

theorem special16_of_nan {s r : Half} (hs : nan16 s) : special16 s r = some (isNaN16 r) := by
  have hnan := (isNaN16_iff s).2 hs
  unfold special16
  split_ifs with heq
  · rw [← beq_iff_eq.1 heq, hnan]
  · rfl

theorem exec_cmpulp32_of_special {st : State} {m : DenormMode} {s r tol : Word} {b : Bool}
    (h : special32 m s r = some b) : exec (.cmpulp32 m s r tol) st = .next (answeredBool st b) := by
  rw [exec_cmpulp32, cmpUlp32, h, Option.getD_some]

/-- Where no special case applies and the tolerance is not negative, the distance decides, under either setting of
R103. -/
theorem exec_cmpulp32_of_distance {st : State} {m : DenormMode} {s r tol : Word} {dist : Nat}
    (h : special32 m s r = none) (hd : ulpDist32 st.params.ulp32 s r = dist) (htol : tol.toNat < 2 ^ 31) :
    exec (.cmpulp32 m s r tol) st = .next (answeredBool st (decide (dist ≤ tol.toNat))) := by
  rw [exec_cmpulp32, cmpUlp32, h, Option.getD_none, hd, signed, if_pos htol, tolOk_natCast _ _ tol.isLt]

theorem exec_cmpulp16_of_distance {st : State} {s r : Half} {tol : Word} {dist : Nat}
    (h : special16 s r = none) (hd : ulpDist16 st.params.ulp16 s r = dist) (htol : tol.toNat < 2 ^ 31) :
    exec (.cmpulp16 s r tol) st = .next (answeredBool st (decide (dist ≤ tol.toNat))) := by
  rw [exec_cmpulp16, cmpUlp16, h, Option.getD_none, hd, signed, if_pos htol, tolOk_natCast _ _ tol.isLt]

/-- Step 3 of R100 asks for the mode Any, so the two others are alike. -/
theorem special32_flushToZero (s r : Word) : special32 .flushToZero s r = special32 .preserve s r := rfl

theorem cmpUlp32_flushToZero (p : Config.Params) (s r : Word) (tol : Int) :
    cmpUlp32 p .flushToZero s r tol = cmpUlp32 p .preserve s r tol := by
  rw [cmpUlp32, special32_flushToZero, cmpUlp32]

theorem cmpEps32_flushToZero (p : Config.Params) (s r eps : Word) :
    cmpEps32 p .flushToZero s r eps = cmpEps32 p .preserve s r eps := by
  rw [cmpEps32, special32_flushToZero, cmpEps32]

/-- The next request's instruction is performed at the state without it (R141). -/
theorem step_of_decode {s : State} {q : Request} {qs : List Request} {i : Instr} (h : decode q = .op i) :
    step { s with pending := q :: qs } = exec i { s with pending := qs } := by
  rw [step_of_pending rfl, exec_eq, responseOf_op _ h, drawsAfter, draws_op h]

/-! ## The encodings -/

theorem encodedWithMode_cmpulp32 : encodedWithMode 3 fun m q => .cmpulp32 m q.a q.b q.c :=
  encodedWithMode_of_decodeOp (op := 3#4) fun q hop => by simp [decodeOp, hop]

theorem encodedWithMode_cmpeps32 : encodedWithMode 5 fun m q => .cmpeps32 m q.a q.b q.c :=
  encodedWithMode_of_decodeOp (op := 5#4) fun q hop => by simp [decodeOp, hop]

theorem encodedWithMode_cmprel32 : encodedWithMode 7 fun m q => .cmprel32 m q.a q.b q.c :=
  encodedWithMode_of_decodeOp (op := 7#4) fun q hop => by simp [decodeOp, hop]

/-- Two requests of an operation that reads the mode, one under FlushToZero and one under Preserve, take the same step
if the two instructions have the same meaning. -/
theorem step_flushToZero_eq_preserve {op : Nat} {build : DenormMode → Request → Instr}
    (henc : encodedWithMode op build) {s : State} {ftz pre : Request} {qs : List Request}
    (hf : rsvBits ftz = 0 ∧ opBits ftz = op ∧ modeBits ftz = 2)
    (hp : rsvBits pre = 0 ∧ opBits pre = op ∧ modeBits pre = 1)
    (hexec : ∀ t, exec (build .flushToZero ftz) t = exec (build .preserve pre) t) :
    step { s with pending := ftz :: qs } = step { s with pending := pre :: qs } := by
  obtain ⟨hfr, hfo, hfm⟩ := hf
  obtain ⟨hpr, hpo, hpm⟩ := hp
  obtain ⟨-, -, hftz, -⟩ := henc ftz hfr hfo
  obtain ⟨-, hpre, -⟩ := henc pre hpr hpo
  rw [step_of_decode (hftz hfm), step_of_decode (hpre hpm), hexec]

/-! ## The statements -/

/-- Settles O42: R102's distance in closed form, and R100's steps by `special32_getD_iff`. -/
theorem compareUlp32Result : Obligations.CompareUlp32Result :=
  ⟨encodedWithMode_cmpulp32, fun m s r c st => ⟨_, exec_cmpulp32 st m s r c, cmpUlp32_iff⟩⟩

/-- Settles O43: CMPULP32's comparison at the tolerance `23 - relexp`. -/
theorem compareRelative32Result : Obligations.CompareRelative32Result :=
  ⟨encodedWithMode_cmprel32, fun m s r c st =>
    ⟨_, exec_cmprel32 st m s r c, cmpUlp32_iff, fun t ht => by rw [exec_cmpulp32, ht]⟩⟩

/-- Settles O44: the test in units is the test on values (`epsTest_iff`). -/
theorem compareEpsilon32Result : Obligations.CompareEpsilon32Result :=
  ⟨encodedWithMode_cmpeps32, fun m s r eps st => ⟨_, exec_cmpeps32 st m s r eps, cmpEps32_iff⟩⟩

/-- Settles O45: R109's distances in closed form, and R108's steps by `special16_getD_iff`. -/
theorem compareUlp16Result : Obligations.CompareUlp16Result :=
  ⟨encodedBy_of_decodeOp (op := 4#4) fun q hop => by simp [decodeOp, hop, halfOf_eq_lowHalf],
    fun s r c st => ⟨_, exec_cmpulp16 st s r c, cmpUlp16_iff⟩⟩

/-- Settles O46: CMPULP16's comparison at the tolerance `10 - relexp`. -/
theorem compareRelative16Result : Obligations.CompareRelative16Result :=
  ⟨encodedBy_of_decodeOp (op := 8#4) fun q hop => by simp [decodeOp, hop, halfOf_eq_lowHalf], fun s r c st =>
    ⟨_, exec_cmprel16 st s r c, cmpUlp16_iff, fun t ht => by rw [exec_cmpulp16, ht]⟩⟩

/-- Settles O47: the epsilon test on the decoded halves. -/
theorem compareEpsilon16Result : Obligations.CompareEpsilon16Result :=
  ⟨encodedBy_of_decodeOp (op := 6#4) fun q hop => by simp [decodeOp, hop, halfOf_eq_lowHalf], fun s r eps st =>
    ⟨_, dec32 s, dec32 r, exec_cmpeps16 st s r eps, exec_dec32 s st, exec_dec32 r st, cmpEps16_iff⟩⟩

/-- Settles O48: the three 32-bit comparators decode to instructions that differ in the mode alone, and neither mode is
Any; the others ignore the mode field. -/
theorem flushToZeroActsAsPreserve : Obligations.FlushToZeroActsAsPreserve := by
  intro s a b c qs op hlo hhi
  have hf := ctl_fields (ctl := 0x20 + op) (m := 2) (op := op) (a := a) (b := b) (c := c) rfl (by omega) (by omega)
  have hp := ctl_fields (ctl := 0x10 + op) (m := 1) (op := op) (a := a) (b := b) (c := c) rfl (by omega) (by omega)
  by_cases hreads : readsMode op = true
  · obtain rfl | rfl | rfl := readsMode_eq_true.1 hreads
    · refine step_flushToZero_eq_preserve encodedWithMode_cmpulp32 hf hp fun t => ?_
      rw [exec_cmpulp32, cmpUlp32_flushToZero, exec_cmpulp32]
    · refine step_flushToZero_eq_preserve encodedWithMode_cmpeps32 hf hp fun t => ?_
      rw [exec_cmpeps32, cmpEps32_flushToZero, exec_cmpeps32]
    · refine step_flushToZero_eq_preserve encodedWithMode_cmprel32 hf hp fun t => ?_
      rw [exec_cmprel32, cmpUlp32_flushToZero, exec_cmprel32]
  · obtain ⟨hfr, hfo, -⟩ := hf
    obtain ⟨hpr, hpo, -⟩ := hp
    refine ignoredFieldsHaveNoEffect _ _ _ _ ?_
    simp only [readPart, hfr, hfo, hpr, hpo, hreads, Bool.false_eq_true, if_false]

/-- Settles O49: the examples by R100's special cases and the distance 1; the epsilon test reads the absolute value of
the difference. -/
theorem comparatorsAreNotCommutative : Obligations.ComparatorsAreNotCommutative := by
  refine ⟨fun m st => ⟨?_, ?_⟩, fun st => ⟨?_, ?_⟩, ulpDist32_comm, ulpDist16_comm, epsTest_comm⟩
  · have hdist (d : Config.Ulp32Diff) : ulpDist32 d 0x7F800000#32 0x7F800001#32 = 1 := by cases d <;> decide
    exact exec_cmpulp32_of_distance (by cases m <;> decide) (hdist _) (by decide)
  · exact exec_cmpulp32_of_special (special32_of_nan (by decide))
  · exact exec_cmpulp32_of_special (by decide)
  · have hdist (d : Config.Ulp32Diff) : ulpDist32 d 0x00000001#32 0x00000000#32 = 1 := by cases d <;> decide
    exact exec_cmpulp32_of_distance (by decide) (hdist _) (by decide)

/-- Settles O50: equal tolerances, the special case of an expected denormal, and the distance 1 of neighbours. -/
theorem comparatorPropertiesHoldForEveryParameter : Obligations.ComparatorPropertiesHoldForEveryParameter := by
  refine fun st => ⟨fun m a b => ?_, fun a b => ?_, ⟨?_, ?_⟩, fun h hn _ hsign => ?_⟩
  · rw [exec_cmprel32, exec_cmpulp32, show (23 : Int) - signed 23#32 = signed 0#32 by decide]
  · rw [exec_cmprel16, exec_cmpulp16, show (10 : Int) - signed 10#32 = signed 0#32 by decide]
  · exact exec_cmpulp32_of_special (by decide)
  · have hdist (d : Config.Ulp32Diff) : ulpDist32 d 0x00000000#32 0x00000001#32 = 1 := by cases d <;> decide
    exact exec_cmpulp32_of_distance (by decide) (hdist _) (by decide)
  · have hne : h ≠ h + 1#16 := by bv_omega
    have hspecial : special16 h (h + 1#16) = none :=
      special16_eq_none.2 ⟨hne, Bool.eq_false_iff.2 (mt (isNaN16_iff h).1 hn)⟩
    have hdist := ulpDist16_succ st.params.ulp16 hsign
    exact ⟨exec_cmpulp16_of_distance hspecial hdist (by decide),
      exec_cmpulp16_of_distance hspecial hdist (by decide)⟩

/-- Settles O51: a NaN `src` is decided by step 2 alone. -/
theorem naNsAreOneClass : Obligations.NaNsAreOneClass := by
  refine ⟨fun m s r c st hs => ⟨isNaN32 r, isNaN32_iff r, ?_, ?_, ?_⟩,
    fun s r c st hs => ⟨isNaN16 r, isNaN16_iff r, ?_, ?_, ?_⟩⟩
  · rw [exec_cmpulp32, cmpUlp32, special32_of_nan hs, Option.getD_some]
  · rw [exec_cmpeps32, cmpEps32, special32_of_nan hs, Option.getD_some]
  · rw [exec_cmprel32, cmpUlp32, special32_of_nan hs, Option.getD_some]
  · rw [exec_cmpulp16, cmpUlp16, special16_of_nan hs, Option.getD_some]
  · rw [exec_cmpeps16, cmpEps16, special16_of_nan hs, Option.getD_some]
  · rw [exec_cmprel16, cmpUlp16, special16_of_nan hs, Option.getD_some]

/-- Settles O52, by `not_epsPasses`. -/
theorem nonPositiveEpsilonPassesNoPair : Obligations.NonPositiveEpsilonPassesNoPair := by
  refine fun eps st h =>
    ⟨fun m s r => ⟨_, exec_cmpeps32 st m s r eps, ?_⟩, fun s r => ⟨_, exec_cmpeps16 st s r eps, ?_⟩⟩
  · rw [cmpEps32, special32_getD_iff, epsTest_of_nonpos h, Bool.false_eq_true]
  · rw [cmpEps16, special16_getD_iff, epsTest_of_nonpos h, Bool.false_eq_true]

end Sys2Proof.Machine
end

section
/-! PROOFS. The denormal classifier (spec/43_denorm.md). The mask of R131 is the flush in numbers (`ftz32_eq_flush`), and a
flushed pattern is never a denormal (`not_den32_flush`), so the flush fixes exactly the patterns that are not. -/

namespace Sys2Proof.Machine

open Spec

/-! ## The flush -/

section Flush

variable (f : Word)

/-- The mask of R131 keeps the sign bit. -/
theorem and_sign32Mask_toNat : (f &&& sign32Mask).toNat = f.toNat / 2 ^ 31 * 2 ^ 31 := by
  have := f.isLt
  rw [BitVec.toNat_and, show sign32Mask.toNat = 2 ^ 31 from rfl, Nat.and_two_pow, Nat.toNat_testBit,
    Nat.mod_eq_of_lt (by omega)]

variable {f} in
theorem flush_of_den32 (h : den32 f) : flush f = f &&& sign32Mask := by
  rw [flush, if_pos h, ← and_sign32Mask_toNat, BitVec.ofNat_toNat, BitVec.setWidth_eq]

variable {f} in
theorem flush_of_not_den32 (h : ¬ den32 f) : flush f = f := if_neg h

theorem ftz32_eq_flush : ftz32 f = flush f := by
  simp only [ftz32, isDenormal32_iff]
  split_ifs with h
  · exact (flush_of_den32 h).symm
  · exact (flush_of_not_den32 h).symm

/-- A flushed denormal is a zero, and nothing else is changed. -/
theorem not_den32_flush : ¬ den32 (flush f) := by
  by_cases h : den32 f
  · have hzero : abs32 (flush f) = 0 := by
      rw [flush_of_den32 h, abs32, and_sign32Mask_toNat, Nat.mul_mod_left]
    omega
  · rwa [flush_of_not_den32 h]

theorem flush_eq_self_iff : flush f = f ↔ ¬ den32 f :=
  ⟨fun h => h ▸ not_den32_flush f, flush_of_not_den32⟩

theorem flush_flush : flush (flush f) = flush f := flush_of_not_den32 (not_den32_flush f)

end Flush

/-! ## Equality after flushing -/

section FlushedEq

variable {a b : Word}

theorem flushedEq32_iff : flushedEq32 a b = true ↔ valueEq (flush a) (flush b) := by
  rw [flushedEq32, ftz32_eq_flush, ftz32_eq_flush, valEq32_iff]

theorem valEq32_comm (p q : Word) : valEq32 p q = valEq32 q p := by
  rw [valEq32, Bool.or_comm, Bool.and_comm, BEq.comm, valEq32]

theorem flushedEq32_comm (a b : Word) : flushedEq32 a b = flushedEq32 b a := valEq32_comm _ _

theorem isNaN32_and_iff : (isNaN32 a && isNaN32 b) = true ↔ nan32 a ∧ nan32 b := by
  rw [Bool.and_eq_true, isNaN32_iff, isNaN32_iff]

end FlushedEq

/-! ## The operations -/

section Exec

variable (f a b : Word) (s : State)

theorem exec_isden32 : exec (.isden32 f) s = .next (answeredBool s (isDenormal32 f)) := rfl

theorem exec_ftz32 : exec (.ftz32 f) s = .next (answered s (flush f)) := by
  rw [← ftz32_eq_flush]
  rfl

theorem exec_feq32 : exec (.feq32 a b) s = .next (answeredBool s (flushedEq32 a b)) := rfl

theorem exec_feqn32 : exec (.feqn32 a b) s =
    .next (answeredBool s ((isNaN32 a && isNaN32 b) || flushedEq32 a b)) := rfl

end Exec

/-! ## The statements -/

/-- Settles O53: the class Denormal, by its fields. -/
theorem denormalTestResult : Obligations.DenormalTestResult := by
  refine ⟨encodedBy_of_decodeOp (op := 9#4) fun q hop => by simp [decodeOp, hop], fun f s => ?_⟩
  refine ⟨isDenormal32 f, exec_isden32 f s, ?_⟩
  rw [isDenormal32_iff, ← classify32_eq_denormal, classify32, classify_eq_denormal, exp32_toNat, mant32_toNat]

/-- Settles O54: the mask is the flush in numbers, and a flushed pattern is not a denormal. -/
theorem flushToZeroResult : Obligations.FlushToZeroResult := by
  refine ⟨encodedBy_of_decodeOp (op := 10#4) fun q hop => by simp [decodeOp, hop], fun f s => ⟨exec_ftz32 f s, ?_⟩⟩
  rw [exec_ftz32, flush_flush]

/-- Settles O55: R58's equality of the flushed operands. -/
theorem flushedEqualityResult : Obligations.FlushedEqualityResult :=
  ⟨encodedBy_of_decodeOp (op := 11#4) fun q hop => by simp [decodeOp, hop],
    fun a b s => ⟨_, exec_feq32 a b s, flushedEq32_iff⟩⟩

/-- Settles O56: two NaNs, or FEQ32's equality. -/
theorem flushedEqualityOrNaNsResult : Obligations.FlushedEqualityOrNaNsResult := by
  refine ⟨encodedBy_of_decodeOp (op := 12#4) fun q hop => by simp [decodeOp, hop],
    fun a b s => ⟨_, exec_feqn32 a b s, ?_⟩⟩
  rw [Bool.or_eq_true, isNaN32_and_iff, flushedEq32_iff]

/-- Settles O57: R58's equality is symmetric, FEQN32's own case needs two NaNs, and the flush fixes exactly the patterns
that are not denormals. -/
theorem denormClassifierProperties : Obligations.DenormClassifierProperties := by
  refine ⟨fun a b s => ⟨?_, ?_⟩, fun a b s hnan => ?_, fun f s => ⟨_, _, exec_isden32 f s, exec_ftz32 f s, ?_⟩⟩
  · rw [exec_feq32, flushedEq32_comm, exec_feq32]
  · rw [exec_feqn32, Bool.and_comm, flushedEq32_comm, exec_feqn32]
  · have hfalse : (isNaN32 a && isNaN32 b) = false := Bool.eq_false_iff.2 (mt isNaN32_and_iff.1 hnan)
    rw [exec_feqn32, hfalse, Bool.false_or, exec_feq32]
  · rw [isDenormal32_iff, Ne, flush_eq_self_iff, not_not]

end Sys2Proof.Machine
end

section
/-! PROOFS. The step on a request by what it decodes to, and the statements about illegal requests that follow
(spec/60_exceptions.md). -/

namespace Sys2Proof.Machine

open Spec

/-! ## The step, by what the oldest request decodes to (R141) -/

section Step

variable {s : State} {q : Request} {qs : List Request}

theorem step_of_decode_op {i : Instr} (hp : s.pending = q :: qs) (hd : decode q = .op i) :
    step s = exec i { s with pending := qs } := by
  rw [step_of_pending hp, exec_eq, responseOf_op _ hd, drawsAfter, draws_op hd]

theorem step_of_decode_illegal {c : IllegalCause} (hp : s.pending = q :: qs) (hd : decode q = .illegal c) :
    step s = .next { s with
      pending := qs
      responses := s.responses ++ [⟨Config.freeY s.draws, true, causeCode c⟩]
      draws := s.draws + 1 } := by
  rw [step_of_pending hp, responseOf_illegal _ hd, drawsAfter, draws_illegal hd]
  rfl

/-- A request that meets one of R69's conditions is refused by the decoder. -/
theorem decode_of_not_legal (h : ¬ legal q) : ∃ c, decode q = .illegal c := by
  cases hd : decode q with
  | op i => exact absurd (decode_eq_op hd).1 h
  | illegal c => exact ⟨c, rfl⟩

end Step

/-! ## The statements -/

/-- Settles O3: each clause fixes the cause that decoding answers, by R69's conditions in R143's order. -/
theorem reservedControlIsAnsweredWithFirstCause : Obligations.ReservedControlIsAnsweredWithFirstCause := by
  refine fun s q qs hp => ⟨fun hr => ?_, fun hr ho => ?_, fun hr ho hm => ?_⟩
  · exact ⟨_, _, step_of_decode_illegal hp (decode_of_rsvBits_ne hr)⟩
  · exact ⟨_, _, step_of_decode_illegal hp (decode_of_opBits_ge hr ho)⟩
  · exact ⟨_, _, step_of_decode_illegal hp (decode_of_modeBits hr (readsMode_eq_true.2 ho) hm)⟩

/-- Settles O4: a legal request decodes to an instruction, and every instruction gives a legal response. -/
theorem noOperandMakesARequestIllegal : Obligations.NoOperandMakesARequestIllegal := by
  intro s q qs hp hl
  obtain ⟨i, hd⟩ := decode_of_legal hl
  exact ⟨_, _, (step_of_decode_op hp hd).trans (exec_eq i _)⟩

/-- Settles O18: of what the step on any request changes, the next answer reads the draw count alone, and that only for
a draw. -/
theorem illegalRequestLeavesNoTrace : Obligations.IllegalRequestLeavesNoTrace := by
  intro s bad q qs hp _ hdraws
  refine ⟨responseOf s.params s.draws q, _, _, _, step_of_pending hp, rfl, rfl, step_of_pending rfl,
    step_of_pending rfl, ?_, rfl, rfl⟩
  rw [responseOf_eq_of_not_draws hdraws s.draws (drawsAfter s.params s.draws bad)]

/-- Settles O2. -/
theorem stepRunsDecodedRequest : Obligations.StepRunsDecodedRequest :=
  fun _ _ _ _ hp hd => step_of_decode_op hp hd

/-- Settles O5: the answer to any illegal cause. -/
theorem illegalResultIsAFreshDraw : Obligations.IllegalResultIsAFreshDraw := by
  intro s q qs hp hl
  obtain ⟨c, hd⟩ := decode_of_not_legal hl
  exact ⟨causeCode c, step_of_decode_illegal hp hd⟩

end Sys2Proof.Machine
end

section
/-! PROOFS. Runs in two parts, and a reset with requests issued after it (spec/70_reset_and_hazards.md). -/

namespace Sys2Proof.Machine

/-- A run goes on from where its first steps end. -/
theorem run_add {s t : State} {m : Nat} (n : Nat) (h : run m s = .next t) : run (m + n) s = run n t := by
  induction m generalizing s with
  | zero =>
    obtain rfl : s = t := Host.Outcome.next.inj h
    rw [Nat.zero_add]
  | succ m ih =>
    rw [Nat.succ_add]
    cases hs : step s with
    | next u =>
      rw [run_succ _ hs] at h ⊢
      exact ih h
    | fault | refused => simp [run, hs] at h

/-- With no request waiting, a run of any length changes nothing (log 4). -/
theorem run_of_idle {s : State} (hp : s.pending = []) (n : Nat) : run n s = .next s := by
  induction n with
  | zero => rfl
  | succ n ih => rw [run_succ n (step_of_idle hp), ih]

@[simp] theorem State.resetEvent_pending (s : State) : s.resetEvent.pending = [] := rfl
@[simp] theorem State.resetEvent_responses (s : State) : s.resetEvent.responses = s.responses := rfl

/-- Requests issued in order wait in that order, behind those that waited before (R32, R167). -/
theorem foldl_issue (qs : List Request) (s : State) :
    qs.foldl (fun t q => t.issue q) s = { s with pending := s.pending ++ qs } := by
  induction qs generalizing s with
  | nil => rw [List.foldl_nil, List.append_nil]
  | cons q qs ih => simp [ih]

/-- Settles O1. -/
theorem resetStateHoldsNothing : Obligations.ResetStateHoldsNothing :=
  ⟨rfl, rfl, rfl, rfl, rfl, rfl, rfl⟩

/-- Settles O22: after the reset only `qs` wait, the first `qs.length` steps answer them, and the rest are idle. -/
theorem resetDiscardsWaitingRequests : Obligations.ResetDiscardsWaitingRequests := by
  refine fun s qs n => ⟨?_, respondAll_length s.params s.draws qs⟩
  have hp : (qs.foldl (fun t q => t.issue q) s.resetEvent).pending = qs := by simp [foldl_issue]
  rw [run_add n (run_pending hp), run_of_idle rfl, foldl_issue]
  simp

end Sys2Proof.Machine
end

section
/-! PROOFS. The 256 control values, counted by what they decode to (spec/60_exceptions.md R142 and R143, and section 2.14
of 95_test_vectors.md). -/

namespace Sys2Proof

open Spec

/-- The cause decoding answers, if it refuses the request. -/
def Decoded.cause : Decoded → Option IllegalCause
  | .op _ => none
  | .illegal c => some c

/-- The first of R69's conditions that holds of a request, in R143's order. -/
def firstCause (q : Request) : Option IllegalCause :=
  if rsvBits q ≠ 0 then some .reservedBits
  else if 13 ≤ opBits q then some .reservedOp
  else if readsMode (opBits q) ∧ modeBits q = 3 then some .reservedMode
  else none

theorem decode_cause (q : Request) : (decode q).cause = firstCause q := by
  unfold firstCause
  obtain ⟨hr, hd⟩ | ⟨hr, ho, hd⟩ | ⟨hr, ho, hm, hd⟩ | ⟨⟨hr, ho, hm⟩, i, hd, -⟩ := decode_cases q
  all_goals rw [hd, Decoded.cause]
  · rw [if_pos hr]
  · rw [if_neg (not_not.2 hr), if_pos ho]
  · have hlt : ¬ 13 ≤ opBits q := by
      have := readsMode_eq_true.1 ho
      omega
    rw [if_neg (not_not.2 hr), if_neg hlt, if_pos ⟨ho, hm⟩]
  · rw [if_neg (not_not.2 hr), if_neg (Nat.not_le.2 ho), if_neg (by rwa [readsMode_eq_true])]

theorem decode_beq_illegal (q : Request) (c : IllegalCause) :
    (decode q == .illegal c) = (firstCause q == some c) := by
  rw [← decode_cause]
  cases decode q with
  | op => rfl
  | illegal => simp [Decoded.cause, beq_eq_decide]

/-- A table word is a control byte with zero ports. -/
theorem requestOfTableWord_eight (k : Nat) :
    requestOfTableWord 8 k = ⟨BitVec.ofNat 8 k, 0#32, 0#32, 0#32⟩ := by
  simp only [requestOfTableWord, Request.ofImage, Request.mk.injEq, ← BitVec.toNat_inj, BitVec.extractLsb'_toNat,
    BitVec.toNat_ofNat, Nat.shiftRight_eq_div_pow]
  omega

theorem decodeTableWord_isSome (k : Nat) :
    (decodeTableWord 8 k).isSome = (firstCause ⟨BitVec.ofNat 8 k, 0#32, 0#32, 0#32⟩).isNone := by
  rw [← requestOfTableWord_eight, ← decode_cause, decodeTableWord]
  cases decode (requestOfTableWord 8 k) <;> rfl

/-- Settles O7: the outcome of a control value is its first cause, a function of the byte's fields, counted over the 256
bytes (in the kernel: the elaborator's own evaluation of so long a list stops at its recursion limit). -/
theorem controlValuesByOutcome : Obligations.ControlValuesByOutcome := by
  simp only [Obligations.ControlValuesByOutcome, decode_beq_illegal, decodeTableWord_isSome]
  decide +kernel

end Sys2Proof
end
